-- ==== Sys2Proof/Config.lean ====
section
/-!
DEFINITION. Config.lean: the constants of 00_scope.md rules R6 to R9, the one open parameter `LEN_W` with
its default and the widths derived from it, and the free values: constants with no body, which no proof can evaluate.
-/

namespace Sys2Proof.Config

/-- The default of the open parameter `LEN_W`, the width of ILEN (R8). The machine takes LEN_W from `State.lenW`, so it
is defined for every value; the default is the one after reset (assumption 1). -/
def lenW : Nat := 32
/-- `ILEN_MAX = 2^LEN_W - 1` (R8). -/
def ilenMax (lenW : Nat) : Nat := 2 ^ lenW - 1
/-- `CNT_W = LEN_W + 1`, the width of a count or a node weight (R8). -/
def cntW (lenW : Nat) : Nat := lenW + 1
/-- `OLEN_W = LEN_W + 8`, the width of OLEN and of OBUF addresses (R8). -/
def olenW (lenW : Nat) : Nat := lenW + 8
/-- `ALPHABET` (R6). -/
def alphabet : Nat := 256
/-- `TERM`, the reserved terminator (R6). -/
def term : BitVec 8 := 0
/-- `CR`, the carriage return that FREQ and PACK drop (R6). -/
def cr : BitVec 8 := 13
/-- `K_MAX` (R7). -/
def kMax : Nat := 255
/-- `NODE_MAX = 2 * K_MAX - 1` (R7). -/
def nodeMax : Nat := 509
/-- `CODE_W` (R7). -/
def codeW : Nat := 264

/-- FREE VALUE: what a buffer byte that nothing has written since reset number `epoch` reads as, at an address
(R26: "Reset: contents unspecified"; assumption 3). It is one value per epoch and address, because IBUF reads are
idempotent (R65). -/
opaque unwrittenByte (epoch addr : Nat) : BitVec 8

/-- FREE VALUE: what a host read of `width` bits returns where the spec says the value is unspecified (R25, R27, R73;
assumption 4). -/
opaque hostRead (width draw : Nat) : BitVec width

/-- FREE VALUE: ROOT after BUILD where PQ has no single member, which K = 0 alone causes (R121; assumption 5). -/
opaque root (draw : Nat) : BitVec 9

/-- FREE VALUE: CAND once CANDLEN is 256 (R41, R184; assumption 6). -/
opaque saturatedCand (draw : Nat) : BitVec 255

/-- FREE VALUE: IPTR, `LEN_W` bits, after UNPACK stops at the terminator (R186; assumption 7). -/
opaque stoppedIptr (lenW draw : Nat) : BitVec lenW

end Sys2Proof.Config
end

