-- ==== Sys2Proof/Word.lean ====
section
/-!
DEFINITION. Word.lean: the word types of the block, one name for each width of 10_state.md. Every one is unsigned
(R10). A quantity whose width depends on the parameter `LEN_W` (ILEN, IPTR, OLEN, OPTR, a count, a weight) has no type
here: it is a natural number, "so the model may use unbounded naturals and be exact" (92_eei_decisions.md D6; R11), and
`Fits` in Safety.lean says that it fits its width.
-/

namespace Sys2Proof

/-- A byte: a buffer byte, a symbol or a code length (`SYM_W` = `LENF_W` = `K_W` = 8, R6). -/
abbrev Byte := BitVec 8
/-- A NODE index, 9 bits (R33, R35). -/
abbrev NodeIx := BitVec 9
/-- `CODE_W` bits: the running code and every stored code value (R7, R37). -/
abbrev Code := BitVec 264
/-- The unpacker's candidate value, 255 bits (R41). -/
abbrev Cand := BitVec 255
/-- The 4-bit PHASE code (R28). -/
abbrev PhaseCode := BitVec 4

end Sys2Proof
end

