-- ==== Sys2Proof/Syntax.lean ====
section
/-!
DEFINITION. Syntax.lean: the instructions, one constructor for each row of spec/opcode_table.json: the two CMD
values (R92), the eleven assigned PHASE codes (R96) and the two fixed-width container fields (R81, R82). The first
thirteen have no operand field: they work on the implicit state their rule names (R96, R195).
-/

namespace Sys2Proof

inductive Instr where
  /-- CMD 0x01 (R197). -/
  | compress
  /-- CMD 0x02 (R200). -/
  | decompress
  /-- PHASE 0 (R211). -/
  | idle
  /-- PHASE 1 (R110). -/
  | init
  /-- PHASE 2 (R111). -/
  | freq
  /-- PHASE 3 (R121). -/
  | build
  /-- PHASE 4 (R136). -/
  | depth
  /-- PHASE 5 (R141). -/
  | sort
  /-- PHASE 6 (R143). -/
  | assign
  /-- PHASE 7 (R156). -/
  | hdrw
  /-- PHASE 8 (R172). -/
  | pack
  /-- PHASE 9 (R160). -/
  | hdrr
  /-- PHASE 10 (R182). -/
  | unpack
  /-- The container's count byte, pattern `kkkkkkkk` (R81). -/
  | hdrK (k : Byte)
  /-- A (symbol, length) pair of the container, pattern `ssssssss llllllll` (R82). -/
  | hdrPair (sym len : Byte)
  deriving DecidableEq, Repr

end Sys2Proof
end

