-- ==== Sys2Proof/WellFormed.lean ====
section
/-!
DEFINITION. WellFormed.lean: which instructions are legal encodings.
-/

namespace Sys2Proof

/-- A count byte of 0 is the one illegal encoding among the instructions: R81 "A producer writes 1 to 255. A consumer
rejects 0", R89 (a). A pair is legal at every value of its two bytes: the decoder checks nothing of it (R89 (d), R164).
An ill-formed count byte still decodes and still has a meaning, the InvalidSymbolCount abort. -/
def Instr.wf : Instr → Bool
  | .compress => true
  | .decompress => true
  | .idle => true
  | .init => true
  | .freq => true
  | .build => true
  | .depth => true
  | .sort => true
  | .assign => true
  | .hdrw => true
  | .pack => true
  | .hdrr => true
  | .unpack => true
  | .hdrK k => k != 0
  | .hdrPair _ _ => true

end Sys2Proof
end

