-- ==== Sys2Proof/Decode.lean ====
section
/-!
DEFINITION. Decode.lean: the decoder of each encoding format of 30_encoding.md, total and rejecting by name, and the
encoder beside it.
-/

namespace Sys2Proof

/-- Where an instruction's bits stand: the value of a CMD write, the PHASE register, or a field of the container
(R98). The formats overlap as numbers (CMD 0x01 and PHASE 1 are both 1), so decoding takes the format. -/
inductive Format where
  | cmd
  | phase
  | hdrK
  | hdrPair
  deriving DecidableEq, Repr

/-- Why bytes are no instruction. -/
inductive Reject where
  /-- A reserved CMD value, 0x00 or 0x03 to 0xFF (R93). -/
  | reservedCmd (v : Byte)
  /-- A reserved PHASE code, 11 to 15 (R97). -/
  | reservedPhase (c : PhaseCode)
  /-- A byte that is no 4-bit PHASE value. -/
  | notFourBits (b : Byte)
  /-- Fewer bytes than the format has. -/
  | tooShort (f : Format)
  deriving DecidableEq, Repr

inductive Decoded where
  | ok (i : Instr)
  | rejected (r : Reject)
  deriving DecidableEq, Repr

/-- The PHASE codes (R96). -/
abbrev phIdle : PhaseCode := 0
abbrev phInit : PhaseCode := 1
abbrev phFreq : PhaseCode := 2
abbrev phBuild : PhaseCode := 3
abbrev phDepth : PhaseCode := 4
abbrev phSort : PhaseCode := 5
abbrev phAssign : PhaseCode := 6
abbrev phHdrw : PhaseCode := 7
abbrev phPack : PhaseCode := 8
abbrev phHdrr : PhaseCode := 9
abbrev phUnpack : PhaseCode := 10

/-- The value a host writes to register 0 (R92, R93). -/
def decodeCmd (v : Byte) : Decoded :=
  if v = 0x01 then .ok .compress
  else if v = 0x02 then .ok .decompress
  else .rejected (.reservedCmd v)

/-- The value of the PHASE register (R96, R97). -/
def decodePhase (c : PhaseCode) : Decoded :=
  if c = phIdle then .ok .idle
  else if c = phInit then .ok .init
  else if c = phFreq then .ok .freq
  else if c = phBuild then .ok .build
  else if c = phDepth then .ok .depth
  else if c = phSort then .ok .sort
  else if c = phAssign then .ok .assign
  else if c = phHdrw then .ok .hdrw
  else if c = phPack then .ok .pack
  else if c = phHdrr then .ok .hdrr
  else if c = phUnpack then .ok .unpack
  else .rejected (.reservedPhase c)

/-- The instruction at the front of `bs`, read in format `f`. A PHASE code stands in the low four bits of a byte whose
high four bits are 0. A pair is two bytes, the symbol at the lower address (R82, R88). -/
def decode (f : Format) (bs : List Byte) : Decoded :=
  match f, bs with
  | .cmd, v :: _ => decodeCmd v
  | .phase, b :: _ => if b.toNat < 16 then decodePhase (b.setWidth 4) else .rejected (.notFourBits b)
  | .hdrK, k :: _ => .ok (.hdrK k)
  | .hdrPair, s :: l :: _ => .ok (.hdrPair s l)
  | f, _ => .rejected (.tooShort f)

/-- The bytes of an instruction and the format they stand in (R92, R96, R81, R82). -/
def encode : Instr → Format × List Byte
  | .compress => (.cmd, [0x01])
  | .decompress => (.cmd, [0x02])
  | .idle => (.phase, [0x00])
  | .init => (.phase, [0x01])
  | .freq => (.phase, [0x02])
  | .build => (.phase, [0x03])
  | .depth => (.phase, [0x04])
  | .sort => (.phase, [0x05])
  | .assign => (.phase, [0x06])
  | .hdrw => (.phase, [0x07])
  | .pack => (.phase, [0x08])
  | .hdrr => (.phase, [0x09])
  | .unpack => (.phase, [0x0A])
  | .hdrK k => (.hdrK, [k])
  | .hdrPair s l => (.hdrPair, [s, l])

/-- How many whole bytes the opcode table gives a row of the format. -/
def Format.size : Format → Nat
  | .cmd => 1
  | .phase => 1
  | .hdrK => 1
  | .hdrPair => 2

/-- Which format a number of the opcode table is read in, given its width alone. The table's rows of formats CMD,
PHASE and CONTAINER share small numbers, so eight bits are read as the first of these that has a row for them: a CMD
value (1, 2), a PHASE code (0, 3 to 10), a count byte (11 to 255); four bits are a PHASE code, sixteen a pair
(assumption 2). -/
def tableFormat (nbits w : Nat) : Option Format :=
  if 2 ^ nbits ≤ w then none
  else if nbits = 4 then some .phase
  else if nbits = 8 then
    if w = 1 ∨ w = 2 then some .cmd else if w < 11 then some .phase else some .hdrK
  else if nbits = 16 then some .hdrPair
  else none

/-- A table number as the bytes the format has, lowest address first. The pair's row numbers the symbol 15:8 and puts
it at the lower address (spec/opcode_table.json, HDR.PAIR). -/
def tableBytes (f : Format) (w : Nat) : List Byte :=
  match f with
  | .cmd => [BitVec.ofNat 8 w]
  | .phase => [BitVec.ofNat 8 w]
  | .hdrK => [BitVec.ofNat 8 w]
  | .hdrPair => [BitVec.ofNat 8 (w / 256), BitVec.ofNat 8 w]

def Decoded.toOption : Decoded → Option Instr
  | .ok i => some i
  | .rejected _ => none

/-- The instruction the decoder reads from a number of the opcode table. -/
def decodeTableWord (nbits w : Nat) : Option Instr :=
  match tableFormat nbits w with
  | none => none
  | some f => (decode f (tableBytes f w)).toOption

end Sys2Proof
end

