-- ==== Sys2Proof/Machine/State.lean ====
section
/-!
DEFINITION. Machine/State.lean: every piece of state 10_state.md gives the block, as plain data, and beside it the parameter
`lenW` and the four fields the model adds (`sched`, `port`, `draws`, `epoch`). CMD has no field: "the register holds nothing between
writes" (R22). M', the filtered message and the decoder's lookup have none either (R36, R43).
-/

namespace Sys2Proof.Machine

open Sys2Proof

/-- The four error kinds (R215). -/
inductive ErrorKind where
  | truncatedHeader
  | unterminatedPayload
  | invalidSymbolCount
  | reservedByteInInput
  deriving DecidableEq, Repr

/-- STATUS: "A model's STATUS type has exactly the seven legal values" (93_implementation_defined.md U15; R23). The
byte a host reads is `Status.toByte`. -/
inductive Status where
  /-- 0x00: idle since reset. -/
  | idle
  /-- 0x01: BUSY. -/
  | running
  /-- 0x02, or DONE with the code of an error. -/
  | done (err : Option ErrorKind)
  deriving DecidableEq, Repr

/-- DIR (R29): 0 while a COMPRESS command runs, 1 while a DECOMPRESS command runs. -/
inductive Dir where
  | compress
  | decompress
  deriving DecidableEq, Repr

/-- An entry of ENT (R31). -/
structure Entry where
  sym : Byte
  len : Byte
  deriving DecidableEq, Repr, Inhabited

/-- An entry of NODE (R33). `sym` is meaningful when `leaf`, `c0` and `c1` when not. -/
structure Node where
  leaf : Bool
  sym : Byte
  c0 : NodeIx
  c1 : NodeIx
  /-- `CNT_W` bits (R33; `Fits`). -/
  weight : Nat
  minsym : Byte
  depth : Byte
  deriving DecidableEq, Repr, Inhabited

/-- An entry of CT (R36). -/
structure CodeEntry where
  sym : Byte
  len : Byte
  code : Code
  deriving DecidableEq, Repr, Inhabited

/-- An entry of EM (R38). -/
structure MapEntry where
  valid : Bool
  len : Byte
  code : Code
  deriving DecidableEq, Repr, Inhabited

/-- A byte memory: the written bytes only, in rising address order (`Memory.wf`). -/
abbrev Memory := List Host.Cell

/-- What may happen next. The block has two agents (R20); which of them moves, and what the host does, is an input, so
it is data in State: `sched` lists the coming events, and with none listed the sequencer steps (assumption 8). -/
inductive Event where
  /-- The sequencer runs the phase operation in PHASE as one step (R205); a header phase that was begun field by field
  it finishes field by field (assumption 16). -/
  | core
  /-- The sequencer takes the finest step this model has: in HDRR or HDRW one container field, elsewhere the phase
  operation (R205: "or finer steps inside a phase"). -/
  | field
  /-- The host writes register 0, CMD (R22). -/
  | writeCmd (v : Byte)
  /-- The host writes register 1, STATUS (R23). -/
  | writeStatus (v : Byte)
  /-- The host writes register 2, ILEN (R24). -/
  | writeIlen (v : Nat)
  /-- The host writes register 3, OLEN (R25). -/
  | writeOlen (v : Nat)
  /-- The host reads register 0 (R22). -/
  | readCmd
  /-- The host reads register 1 (R23). -/
  | readStatus
  /-- The host reads register 2 (R24). -/
  | readIlen
  /-- The host reads register 3 (R25). -/
  | readOlen
  /-- The host writes an IBUF byte (R26). -/
  | writeIbuf (a : Nat) (v : Byte)
  /-- The host reads an IBUF byte (R26). -/
  | readIbuf (a : Nat)
  /-- The host reads an OBUF byte (R27). -/
  | readObuf (a : Nat)
  /-- The reset input (R240). -/
  | reset
  deriving DecidableEq, Repr

/-- The state of the block. Fields of LEN_W, OLEN_W or CNT_W bits are natural numbers (D6), which `Fits` bounds. -/
structure State where
  /-- The parameter LEN_W (R8), "a positive integer": fixed for a machine, and nothing writes it. It stands in State
  because `step` takes no other argument, so that a statement about every state is about every LEN_W (assumption 1). -/
  lenW : Nat
  /-- STATUS (R23). -/
  status : Status
  /-- ILEN (R24). -/
  ilen : Nat
  /-- OLEN (R25). -/
  olen : Nat
  /-- IBUF (R26). -/
  ibuf : Memory
  /-- OBUF (R27). -/
  obuf : Memory
  /-- PHASE, the block's program counter (R28). -/
  phase : PhaseCode
  /-- DIR (R29). -/
  dir : Dir
  /-- IPTR (R39). -/
  iptr : Nat
  /-- OPTR (R39). -/
  optr : Nat
  /-- K (R32). -/
  k : Byte
  /-- NN (R35). -/
  nn : NodeIx
  /-- ROOT (R35). -/
  root : NodeIx
  /-- CODE (R37). -/
  code : Code
  /-- PREVLEN (R37). -/
  prevlen : Byte
  /-- ACC (R40). -/
  acc : Byte
  /-- NBITS (R40). -/
  nbits : BitVec 3
  /-- CAND (R41). -/
  cand : Cand
  /-- CANDLEN (R41). -/
  candlen : BitVec 9
  /-- BITPOS (R41). -/
  bitpos : BitVec 3
  /-- FREQ (R30). -/
  freq : Vector Nat 256
  /-- ENT (R31). -/
  ent : Vector Entry 255
  /-- NODE (R33). -/
  node : Vector Node 509
  /-- PQ, a set of NODE indices, listed rising without repeats (R34). -/
  pq : List NodeIx
  /-- CT (R36). -/
  ct : Vector CodeEntry 255
  /-- EM (R38). -/
  em : Vector MapEntry 256
  /-- The model's own: the coming events, the next first. -/
  sched : List Event
  /-- The model's own: what the last host read returned, as a number. -/
  port : Nat
  /-- The model's own: how many free values have been drawn. -/
  draws : Nat
  /-- The model's own: how many resets the block has seen. -/
  epoch : Nat
  deriving DecidableEq, Repr

/-- Why the machine stops. Both are states the spec calls unreachable, and each is safe: nothing is proved of what
would follow. -/
inductive Fault where
  /-- The step raises it where PHASE holds a reserved code: "it treats codes 11 to 15 as stuck (no step)" (R97). -/
  | stuckPhase (c : PhaseCode)
  /-- PACK raises it where a byte it must encode has no EM entry: "it makes that case a fault of the model, never a
  value" (R174). -/
  | packLookupMiss (sym : Byte)
  deriving DecidableEq, Repr

/-- Why an instruction has no meaning here. -/
inductive Refusal where
  /-- Raised by an arm of `exec` whose instruction is not modelled yet; safe. No arm raises it. -/
  | notModelled (mnemonic : String)
  deriving DecidableEq, Repr

/-- The block with a given LEN_W right after reset (R45, R240): STATUS, ILEN, OLEN and PHASE as the spec states, nothing in the buffers.
The spec leaves every other register unspecified; the model holds zero there (DESIGN CHOICE, assumption 9). -/
def State.resetAt (lenW : Nat) : State where
  lenW := lenW
  status := .idle
  ilen := 0
  olen := 0
  ibuf := []
  obuf := []
  phase := 0
  dir := .compress
  iptr := 0
  optr := 0
  k := 0
  nn := 0
  root := 0
  code := 0
  prevlen := 0
  acc := 0
  nbits := 0
  cand := 0
  candlen := 0
  bitpos := 0
  freq := .replicate 256 0
  ent := .replicate 255 ⟨0, 0⟩
  node := .replicate 509 ⟨false, 0, 0, 0, 0, 0, 0⟩
  pq := []
  ct := .replicate 255 ⟨0, 0, 0⟩
  em := .replicate 256 ⟨false, 0, 0⟩
  sched := []
  port := 0
  draws := 0
  epoch := 0

/-- The block right after reset at the spec's default, LEN_W = 32 (R8). -/
def State.reset : State := State.resetAt Config.lenW

end Sys2Proof.Machine
end

