-- ==== Sys2Proof/Machine/Ops.lean ====
section
/-!
DEFINITION. Machine/Ops.lean: the named operations every phase is written with: one byte of memory, one entry of a
table, and the three events that end or start a command.
-/

namespace Sys2Proof.Machine

open Sys2Proof

/-! ### Memory -/

/-- The canonical form: addresses strictly rising. An unlisted address holds no value, so no entry can equal what it
holds (assumption 3). -/
abbrev Memory.wf (m : Memory) : Prop := m.Pairwise (fun c d => c.1 < d.1)

/-- The byte written at `a`, or none where nothing has been written. -/
def Memory.lookup : Memory → Nat → Option Byte
  | [], _ => none
  | c :: m, a => if c.1 = a then some c.2 else Memory.lookup m a

/-- `MemWrite(_, a, 1, v)` (R12): one byte, in its place in the address order. -/
def Memory.write : Memory → Nat → Byte → Memory
  | [], a, v => [(a, v)]
  | c :: m, a, v =>
    if a < c.1 then (a, v) :: c :: m
    else if a = c.1 then (a, v) :: m
    else c :: Memory.write m a v

/-- `MemRead(IBUF, a, 1)` (R12, R65). A byte never written reads as a free value (R26, assumption 3). -/
def State.readIbuf (s : State) (a : Nat) : Byte :=
  (Memory.lookup s.ibuf a).getD (Config.unwrittenByte s.epoch a)

/-! ### Tables -/

/-- `T[i]` (R12). An index past the table never arises in a run; it reads the zero entry (assumption 10). -/
def tget {α : Type} [Inhabited α] {n : Nat} (t : Vector α n) (i : Nat) : α := (t[i]?).getD default

/-- `T[i] <- v` (R12). An index past the table never arises in a run; it writes nothing (assumption 10). -/
def tset {α : Type} {n : Nat} (t : Vector α n) (i : Nat) (v : α) : Vector α n := t.setIfInBounds i v

/-! ### Starting and ending a command -/

/-- BUSY (R23). -/
abbrev State.busy (s : State) : Prop := s.status = .running

/-- Command acceptance (R196), one event. -/
def State.accept (d : Dir) (s : State) : State :=
  { s with status := .running, olen := 0, dir := d, phase := phInit }

/-- The finish sequence (R199), one event. -/
def State.finish (s : State) : State :=
  { s with olen := s.optr, status := .done none, phase := phIdle }

/-- The abort sequence of `raise <Error>` (R226), one event: the block's trap entry. Nothing is saved, there is no
handler, and there is no return from it (R229): the next accepted command clears DONE and ERR. -/
def State.raise (e : ErrorKind) (s : State) : State :=
  { s with olen := 0, status := .done (some e), phase := phIdle }

/-- The reset event (R240, R241): the state right after reset, except LEN_W, which is fixed, and the model's own
fields, which are no part of the block. Where R45 says "unspecified" it leaves the values `State.reset` names (assumption 9). -/
def State.applyReset (s : State) : State :=
  { State.resetAt s.lenW with
    sched := s.sched, port := s.port, draws := s.draws, epoch := s.epoch + 1 }

end Sys2Proof.Machine
end

