-- ==== Sys2Proof/Machine/Operands.lean ====
section
/-!
DEFINITION. Machine/Operands.lean: the implicit operands of the commands and phases (R195): the input bytes, the valid
entries of the tables, and the addresses of the container's fields (R67, R88).
-/

namespace Sys2Proof.Machine

open Sys2Proof

/-- The input bytes from address `start` to `ILEN - 1`, in rising address order (R75). The core never writes IBUF
(R26), so they are the bytes a loop of reads would meet. -/
def State.inputFrom (s : State) (start : Nat) : List Byte :=
  (List.range' start (s.ilen - start)).map s.readIbuf

/-- `IBUF[0 .. ILEN-1]` (R13, R195). -/
def State.message (s : State) : List Byte := s.inputFrom 0

/-- `ENT[0 .. K-1]` (R31). -/
def State.entries (s : State) : List Entry := (List.range s.k.toNat).map (tget s.ent)

/-- `CT[0 .. K-1]` (R36). -/
def State.rows (s : State) : List CodeEntry := (List.range s.k.toNat).map (tget s.ct)

/-- The symbol byte of pair `j` (R67). -/
def symAddr (j : Nat) : Nat := 1 + 2 * j

/-- The length byte of pair `j` (R67). -/
def lenAddr (j : Nat) : Nat := 2 + 2 * j

/-- The first payload byte after a header of `k` pairs; also the header's length (R67). -/
def payloadAddr (k : Nat) : Nat := 1 + 2 * k

/-- The pair whose symbol byte stands at address `a`. -/
def pairAt (a : Nat) : Nat := (a - 1) / 2

end Sys2Proof.Machine
end

