-- ==== Sys2Proof/Machine/BitPacker.lean ====
section
/-!
DEFINITION. Machine/BitPacker.lean: PACK (44_bit_packer.md).
-/

namespace Sys2Proof.Machine

open Sys2Proof

/-- The registers the bit packer works on. -/
structure Packer where
  acc : Byte
  nbits : BitVec 3
  obuf : Memory
  optr : Nat
  deriving DecidableEq, Repr

/-- `PutBit(b)` (R171). -/
def putBit (b : Bool) (p : Packer) : Packer :=
  let acc := (p.acc <<< 1) ||| (BitVec.ofBool b).setWidth 8
  if p.nbits = 7 then
    { acc := 0, nbits := 0, obuf := Memory.write p.obuf p.optr acc, optr := p.optr + 1 }
  else { p with acc := acc, nbits := p.nbits + 1 }

/-- `PutBit(c[i])` for `i` from `n - 1` down to 0 (R171). -/
def putBits (c : Code) : Nat → Packer → Packer
  | 0, p => p
  | n + 1, p => putBits c n (putBit (c.getLsbD n) p)

/-- What PACK's scan ends with: the packer, or a symbol whose lookup missed (R174). -/
inductive Packed where
  | ok (p : Packer)
  | miss (sym : Byte)
  deriving DecidableEq, Repr

/-- `PutCode(s)` (R171, R174). -/
def putCode (em : Vector MapEntry 256) (s : Byte) (p : Packer) : Packed :=
  let e := tget em s.toNat
  if e.valid then .ok (putBits e.code e.len.toNat p) else .miss s

/-- PACK's loop over the message, CR skipped, then the terminator's codeword (R172). -/
def packScan (em : Vector MapEntry 256) : List Byte → Packer → Packed
  | [], p => putCode em Config.term p
  | b :: bs, p =>
    if b = Config.cr then packScan em bs p
    else
      match putCode em b p with
      | .ok p => packScan em bs p
      | .miss s => .miss s

/-- Zero bits up to the byte boundary (R172, R173). -/
def pad (p : Packer) : Packer :=
  if p.nbits = 0 then p
  else
    { acc := 0, nbits := 0
      obuf := Memory.write p.obuf p.optr (p.acc <<< (8 - p.nbits.toNat)), optr := p.optr + 1 }

def State.packer (s : State) : Packer := ⟨s.acc, s.nbits, s.obuf, s.optr⟩

def State.withPacker (s : State) (p : Packer) : State :=
  { s with acc := p.acc, nbits := p.nbits, obuf := p.obuf, optr := p.optr }

/-- PACK (R172): IPTR ends at ILEN, and the finish sequence is its last action. -/
def execPack (s : State) : Host.Outcome State Fault Refusal :=
  match packScan s.em s.message s.packer with
  | .ok p => .next ({ s.withPacker (pad p) with iptr := s.ilen }).finish
  | .miss b => .fault (.packLookupMiss b)

end Sys2Proof.Machine
end

