-- ==== Sys2Proof/Machine/BitUnpacker.lean ====
section
/-!
DEFINITION. Machine/BitUnpacker.lean: UNPACK (45_bit_unpacker.md).
-/

namespace Sys2Proof.Machine

open Sys2Proof

/-- `Match(L, V)` over the rows of CT: the row of that length and value, none for lengths 0 and 256 (R183). -/
def matchRow (rows : List CodeEntry) (l : BitVec 9) (v : Cand) : Option CodeEntry :=
  if l = 0 ∨ l = 256 then none
  else rows.find? (fun r => r.len.setWidth 9 == l && r.code == v.setWidth 264)

/-- The registers the unpacker works on. -/
structure Unpacker where
  cand : Cand
  candlen : BitVec 9
  bitpos : BitVec 3
  iptr : Nat
  obuf : Memory
  optr : Nat
  draws : Nat
  deriving DecidableEq, Repr

/-- "append to the candidate string", saturating (R182, R184). From length 256 on CAND is unspecified: a free value
(assumption 6). -/
def Unpacker.grow (u : Unpacker) (b : Bool) : Unpacker :=
  if 255 ≤ u.candlen then
    { u with candlen := 256, cand := Config.saturatedCand u.draws, draws := u.draws + 1 }
  else { u with cand := (u.cand <<< 1) ||| (BitVec.ofBool b).setWidth 255, candlen := u.candlen + 1 }

/-- "emit the symbol" and "reset the candidate string" (R182). -/
def Unpacker.emit (u : Unpacker) (s : Byte) : Unpacker :=
  { u with obuf := Memory.write u.obuf u.optr s, optr := u.optr + 1, cand := 0, candlen := 0 }

/-- Whether UNPACK goes on or has met the terminator. -/
inductive Unpacked where
  | more (u : Unpacker)
  | stopped (u : Unpacker)
  deriving DecidableEq, Repr

/-- One payload bit (R182). -/
def unpackBit (rows : List CodeEntry) (b : Bool) (u : Unpacker) : Unpacked :=
  let u := u.grow b
  match matchRow rows u.candlen u.cand with
  | none => .more u
  | some r => if r.sym = Config.term then .stopped u else .more (u.emit r.sym)

/-- The `n` lowest bits of a payload byte, from BITPOS = n - 1 down to 0 (R182). -/
def unpackBits (rows : List CodeEntry) (byte : Byte) : Nat → Unpacker → Unpacked
  | 0, u => .more u
  | n + 1, u =>
    match unpackBit rows (byte.getLsbD n) { u with bitpos := BitVec.ofNat 3 n } with
    | .more u => unpackBits rows byte n u
    | .stopped u => .stopped u

/-- UNPACK's loop over the payload bytes (R182). -/
def unpackScan (rows : List CodeEntry) : List Byte → Unpacker → Unpacked
  | [], u => .more u
  | b :: bs, u =>
    match unpackBits rows b 8 u with
    | .more u => unpackScan rows bs { u with iptr := u.iptr + 1 }
    | .stopped u => .stopped u

def State.unpacker (s : State) : Unpacker := ⟨s.cand, s.candlen, s.bitpos, s.iptr, s.obuf, s.optr, s.draws⟩

def State.withUnpacker (s : State) (u : Unpacker) : State :=
  { s with
    cand := u.cand, candlen := u.candlen, bitpos := u.bitpos, iptr := u.iptr, obuf := u.obuf, optr := u.optr
    draws := u.draws }

/-- UNPACK (R182): the finish sequence at the terminator, where IPTR is left unspecified (R186, assumption 7), else
UnterminatedPayload (R185). -/
def execUnpack (s : State) : Host.Outcome State Fault Refusal :=
  match unpackScan s.rows (s.inputFrom s.iptr) s.unpacker with
  | .stopped u =>
    .next ({ s.withUnpacker u with iptr := (Config.stoppedIptr s.lenW u.draws).toNat, draws := u.draws + 1 }).finish
  | .more u => .next ((s.withUnpacker u).raise .unterminatedPayload)

end Sys2Proof.Machine
end

