-- ==== Sys2Proof/Machine/Canonicalizer.lean ====
section
/-!
DEFINITION. Machine/Canonicalizer.lean: DEPTH, SORT and ASSIGN (42_canonicalizer.md).
-/

namespace Sys2Proof.Machine

open Sys2Proof

/-! ### DEPTH -/

/-- `NODE[i].depth <- d`. -/
def setDepth (node : Vector Node 509) (i : NodeIx) (d : Byte) : Vector Node 509 :=
  tset node i.toNat { tget node i.toNat with depth := d }

/-- One turn of DEPTH's loop: both children of node `i` are one edge deeper (R136). -/
def pushDepth (node : Vector Node 509) (i : Nat) : Vector Node 509 :=
  let node := setDepth node (tget node i).c0 ((tget node i).depth + 1)
  setDepth node (tget node i).c1 ((tget node i).depth + 1)

/-- The indices `2K-2 downto K` (R136). -/
def internalsDown (k : Nat) : List Nat := (List.range (k - 1)).map (fun t => 2 * k - 2 - t)

def State.depths (s : State) : Vector Node 509 :=
  (internalsDown s.k.toNat).foldl pushDepth (setDepth s.node s.root 0)

/-- `ENT[j].len <- v`. -/
def setLen (ent : Vector Entry 255) (j : Nat) (v : Byte) : Vector Entry 255 :=
  tset ent j { tget ent j with len := v }

/-- `for j in 0..K-1: ENT[j].len <- NODE[j].depth`, then 1 where K = 1 (R136, R137). -/
def assignLengths (node : Vector Node 509) (k : Nat) (ent : Vector Entry 255) : Vector Entry 255 :=
  let ent := (List.range k).foldl (fun ent j => setLen ent j (tget node j).depth) ent
  if k = 1 then setLen ent 0 1 else ent

/-- DEPTH (R136). -/
def execDepth (s : State) : Host.Outcome State Fault Refusal :=
  .next { s with node := s.depths, ent := assignLengths s.depths s.k.toNat s.ent, phase := phSort }

/-! ### SORT -/

/-- The canonical order: by length, then by symbol, both unsigned (R141, R142). -/
def entryLe (x y : Entry) : Bool := x.len < y.len || (x.len == y.len && x.sym ≤ y.sym)

/-- Insert before the first entry that is not smaller. -/
def insertEntry (e : Entry) : List Entry → List Entry
  | [] => [e]
  | x :: xs => if entryLe e x then e :: x :: xs else x :: insertEntry e xs

/-- The stable sort of SORT: entries that compare equal keep their order in ENT (R141, R142). -/
def canonicalOrder (es : List Entry) : List Entry := es.foldr insertEntry []

/-- `CT[i].sym`, `CT[i].len` from row `i` on; `CT[i].code` stays (R141). -/
def writeRows (ct : Vector CodeEntry 255) : Nat → List Entry → Vector CodeEntry 255
  | _, [] => ct
  | i, e :: es => writeRows (tset ct i { tget ct i with sym := e.sym, len := e.len }) (i + 1) es

/-- SORT (R141). -/
def execSort (s : State) : Host.Outcome State Fault Refusal :=
  .next { s with ct := writeRows s.ct 0 (canonicalOrder s.entries), phase := phAssign }

/-! ### ASSIGN -/

/-- The registers ASSIGN's loop works on. -/
structure Assigner where
  ct : Vector CodeEntry 255
  code : Code
  prevlen : Byte
  deriving DecidableEq, Repr

/-- One turn of ASSIGN's loop (R143). -/
def assignRow (a : Assigner) (i : Nat) : Assigner :=
  let l := (tget a.ct i).len
  let code := if a.prevlen < l then a.code <<< (l.toNat - a.prevlen.toNat) else a.code
  { ct := tset a.ct i { tget a.ct i with code := code }, code := code + 1, prevlen := l }

def State.codes (s : State) : Assigner :=
  (List.range s.k.toNat).foldl assignRow ⟨s.ct, 0, (tget s.ct 0).len⟩

/-- `EM[CT[i].sym] <- {valid: 1, len: CT[i].len, code: CT[i].code}` (R143). -/
def mapRow (ct : Vector CodeEntry 255) (em : Vector MapEntry 256) (i : Nat) : Vector MapEntry 256 :=
  let r := tget ct i
  tset em r.sym.toNat ⟨true, r.len, r.code⟩

/-- ASSIGN (R143): EM is filled on the encoder side alone. -/
def execAssign (s : State) : Host.Outcome State Fault Refusal :=
  let a := s.codes
  let t := { s with ct := a.ct, code := a.code, prevlen := a.prevlen }
  if s.dir = .compress then
    .next { t with em := (List.range s.k.toNat).foldl (mapRow a.ct) s.em, phase := phHdrw }
  else .next { t with phase := phUnpack }

end Sys2Proof.Machine
end

