-- ==== Sys2Proof/Machine/Commands.lean ====
section
/-!
DEFINITION. Machine/Commands.lean: COMPRESS, DECOMPRESS and IDLE (46_codec_commands.md). A command is its acceptance;
the sequencer then runs the phases of the sequence table (R197, R198, R200).
-/

namespace Sys2Proof.Machine

open Sys2Proof

/-- COMPRESS: accepted while BUSY = 0, dropped while BUSY = 1 (R196, R197). -/
def execCompress (s : State) : Host.Outcome State Fault Refusal :=
  if s.busy then .next s else .next (s.accept .compress)

/-- DECOMPRESS: accepted while BUSY = 0, dropped while BUSY = 1 (R196, R200). -/
def execDecompress (s : State) : Host.Outcome State Fault Refusal :=
  if s.busy then .next s else .next (s.accept .decompress)

/-- IDLE: "the sequencer does nothing and changes no state" (R211). -/
def execIdle (s : State) : Host.Outcome State Fault Refusal := .next s

end Sys2Proof.Machine
end

