-- ==== Sys2Proof/Machine/Frequency.lean ====
section
/-!
DEFINITION. Machine/Frequency.lean: INIT and FREQ (40_frequency_model.md).
-/

namespace Sys2Proof.Machine

open Sys2Proof

/-- `EM[s].valid <- 0` for every s: the other fields stay (R110). -/
def clearMap (em : Vector MapEntry 256) : Vector MapEntry 256 := em.map (fun e => { e with valid := false })

/-- INIT (R110). -/
def execInit (s : State) : Host.Outcome State Fault Refusal :=
  .next { s with
    k := 0, nn := 0, iptr := 0, optr := 0, acc := 0, nbits := 0, cand := 0, candlen := 0
    freq := .replicate 256 0, em := clearMap s.em, pq := []
    phase := if s.dir = .compress then phFreq else phHdrr }

/-- The registers the FREQ scan works on. -/
structure Counter where
  freq : Vector Nat 256
  ent : Vector Entry 255
  k : Byte
  iptr : Nat
  deriving DecidableEq, Repr

/-- `ENT[K].sym <- b; K <- K + 1` (R111, R114). -/
def Counter.addEntry (c : Counter) (b : Byte) : Counter :=
  { c with ent := tset c.ent c.k.toNat { tget c.ent c.k.toNat with sym := b }, k := c.k + 1 }

/-- One counted byte of the scan (R111). -/
def Counter.count (c : Counter) (b : Byte) : Counter :=
  let c := if tget c.freq b.toNat = 0 then c.addEntry b else c
  { c with freq := tset c.freq b.toNat (tget c.freq b.toNat + 1), iptr := c.iptr + 1 }

/-- The FREQ loop over the message; `true` where it met a byte 0 and stopped there (R111 to R113). -/
def freqScan : List Byte → Counter → Counter × Bool
  | [], c => (c, false)
  | b :: bs, c =>
    if b = Config.cr then freqScan bs { c with iptr := c.iptr + 1 }
    else if b = Config.term then (c, true)
    else freqScan bs (c.count b)

/-- The appended terminator: `ENT[K].sym <- 0; K <- K + 1; FREQ[0] <- 1` (R111, R115). -/
def Counter.addTerminator (c : Counter) : Counter :=
  let c := c.addEntry Config.term
  { c with freq := tset c.freq 0 1 }

def State.counter (s : State) : Counter := ⟨s.freq, s.ent, s.k, s.iptr⟩

def State.withCounter (s : State) (c : Counter) : State :=
  { s with freq := c.freq, ent := c.ent, k := c.k, iptr := c.iptr }

/-- FREQ (R111). -/
def execFreq (s : State) : Host.Outcome State Fault Refusal :=
  match freqScan s.message { s.counter with iptr := 0 } with
  | (c, true) => .next ((s.withCounter c).raise .reservedByteInInput)
  | (c, false) => .next { s.withCounter c.addTerminator with phase := phBuild }

end Sys2Proof.Machine
end

