-- ==== Sys2Proof/Machine/HeaderCodec.lean ====
section
/-!
DEFINITION. Machine/HeaderCodec.lean: HDRW and HDRR (43_header_codec.md), and the two container fields as steps of
their own (R81, R82; R205 allows the finer steps). A field is consumed by HDRR and produced by HDRW; no other phase
touches one, so there it changes nothing (assumption 11).
-/

namespace Sys2Proof.Machine

open Sys2Proof

/-! ### HDRW -/

/-- The two bytes of a pair at its addresses (R156). -/
def writePair (m : Memory) (j : Nat) (e : Entry) : Memory :=
  Memory.write (Memory.write m (symAddr j) e.sym) (lenAddr j) e.len

/-- HDRW (R156). -/
def execHdrw (s : State) : Host.Outcome State Fault Refusal :=
  .next { s with
    obuf := (List.range s.k.toNat).foldl (fun m j => writePair m j (tget s.ent j)) (Memory.write s.obuf 0 s.k)
    optr := payloadAddr s.k.toNat
    phase := phPack }

/-! ### HDRR -/

/-- `ENT[j] <- (IBUF[1 + 2j], IBUF[2 + 2j])` (R160, R88). -/
def readPair (s : State) (ent : Vector Entry 255) (j : Nat) : Vector Entry 255 :=
  tset ent j ⟨s.readIbuf (symAddr j), s.readIbuf (lenAddr j)⟩

/-- What HDRR does once it holds the count byte: K is loaded, and the two tests of R160 follow in their order (R165);
`go` is the rest. -/
def withCount (k : Byte) (s : State) (go : State → State) : State :=
  let t := { s with k := k }
  if k = 0 then t.raise .invalidSymbolCount
  else if s.ilen < payloadAddr k.toNat then t.raise .truncatedHeader
  else go t

/-- HDRR (R160). -/
def execHdrr (s : State) : Host.Outcome State Fault Refusal :=
  if s.ilen < 1 then .next (s.raise .truncatedHeader)
  else
    .next (withCount (s.readIbuf 0) s (fun t =>
      { t with
        ent := (List.range t.k.toNat).foldl (readPair t) t.ent
        iptr := payloadAddr t.k.toNat
        phase := phSort }))

/-! ### The container's fields -/

/-- After a field: the header ends where the cursor reaches its length (R67), and the phase's successor follows
(R198). -/
def endOfHeader (cursor : Nat) (k : Byte) (phase next : PhaseCode) : PhaseCode :=
  if payloadAddr k.toNat ≤ cursor then next else phase

/-- HDR.K. Consumed (HDRR): the count byte is loaded and tested (R81, R88, R160). Produced (HDRW): it is the byte at
offset 0 (R81, R156). -/
def execHdrK (k : Byte) (s : State) : Host.Outcome State Fault Refusal :=
  if s.phase = phHdrr then .next (withCount k s (fun t => { t with iptr := 1 }))
  else if s.phase = phHdrw then
    .next { s with
      obuf := Memory.write s.obuf 0 k, optr := 1
      phase := endOfHeader 1 s.k phHdrw phPack }
  else .next s

/-- HDR.PAIR. Consumed (HDRR): it is the entry whose bytes IPTR points at (R82, R88, R160). Produced (HDRW): its bytes
go to OPTR and the next address, the symbol first (R82, R156). -/
def execHdrPair (sym len : Byte) (s : State) : Host.Outcome State Fault Refusal :=
  if s.phase = phHdrr then
    .next { s with
      ent := tset s.ent (pairAt s.iptr) ⟨sym, len⟩
      iptr := s.iptr + 2
      phase := endOfHeader (s.iptr + 2) s.k phHdrr phSort }
  else if s.phase = phHdrw then
    .next { s with
      obuf := writePair s.obuf (pairAt s.optr) ⟨sym, len⟩
      optr := s.optr + 2
      phase := endOfHeader (s.optr + 2) s.k phHdrw phPack }
  else .next s

end Sys2Proof.Machine
end

