-- ==== Sys2Proof/Machine/TreeBuilder.lean ====
section
/-!
DEFINITION. Machine/TreeBuilder.lean: BUILD (41_tree_builder.md).
-/

namespace Sys2Proof.Machine

open Sys2Proof

/-- The queue order: by weight, then by minsym (R122). -/
def keyLt (x y : Node) : Bool := x.weight < y.weight || (x.weight == y.weight && x.minsym < y.minsym)

/-- Insert an index into PQ, a set listed in rising order (R34). -/
def pqInsert (i : NodeIx) : List NodeIx → List NodeIx
  | [] => [i]
  | j :: js => if i < j then i :: j :: js else if i = j then j :: js else j :: pqInsert i js

/-- The member of PQ with the smallest key (R122). Members of one key do not occur in a run; among them it is the
lowest index. -/
def pqMin (node : Vector Node 509) : List NodeIx → Option NodeIx
  | [] => none
  | i :: is =>
    match pqMin node is with
    | none => some i
    | some m => if keyLt (tget node m.toNat) (tget node i.toNat) then some m else some i

/-- `popmin(PQ)`: the member with the smallest key, and PQ without it (R121). -/
def popMin (node : Vector Node 509) (pq : List NodeIx) : Option (NodeIx × List NodeIx) :=
  match pqMin node pq with
  | none => none
  | some m => some (m, pq.erase m)

/-- The registers BUILD works on. -/
structure Builder where
  node : Vector Node 509
  pq : List NodeIx
  nn : NodeIx
  deriving DecidableEq, Repr

/-- Leaf `j` of ENT: the four fields R121 names are written, the others stay. -/
def addLeaf (freq : Vector Nat 256) (ent : Vector Entry 255) (b : Builder) (j : Nat) : Builder :=
  let s := (tget ent j).sym
  { b with
    node := tset b.node j
      { tget b.node j with leaf := true, sym := s, weight := tget freq s.toNat, minsym := s }
    pq := pqInsert (BitVec.ofNat 9 j) b.pq }

/-- `min` on minsym, unsigned (R126). -/
def minByte (a b : Byte) : Byte := if a ≤ b then a else b

/-- The internal node over `x` ("0" child) and `y` ("1" child), at NODE[NN] (R121, R124). -/
def addInternal (b : Builder) (x y : NodeIx) (pq : List NodeIx) : Builder :=
  let nx := tget b.node x.toNat
  let ny := tget b.node y.toNat
  { node := tset b.node b.nn.toNat
      { tget b.node b.nn.toNat with
        leaf := false, c0 := x, c1 := y, weight := nx.weight + ny.weight, minsym := minByte nx.minsym ny.minsym }
    pq := pqInsert b.nn pq
    nn := b.nn + 1 }

/-- One merge: pop two, push their parent (R121). With K leaves and at most K - 1 merges two members are always there
(R123). -/
def merge (b : Builder) : Builder :=
  match popMin b.node b.pq with
  | none => b
  | some (x, pq) =>
    match popMin b.node pq with
    | none => b
    | some (y, pq) => addInternal b x y pq

def mergeTimes : Nat → Builder → Builder
  | 0, b => b
  | t + 1, b => mergeTimes t (merge b)

/-- BUILD's loops: the K leaves, then `NN <- K` and K - 1 merges (R121). -/
def State.buildTree (s : State) : Builder :=
  let leaves := (List.range s.k.toNat).foldl (addLeaf s.freq s.ent) ⟨s.node, [], s.nn⟩
  mergeTimes (s.k.toNat - 1) { leaves with nn := s.k.setWidth 9 }

def State.withBuilder (s : State) (b : Builder) : State := { s with node := b.node, pq := b.pq, nn := b.nn }

/-- BUILD (R121). K is at least 1 in a run (R120); with K = 0 "the single member of PQ" does not exist and ROOT is a
free value (assumption 5). -/
def execBuild (s : State) : Host.Outcome State Fault Refusal :=
  let b := s.buildTree
  match b.pq with
  | [r] => .next { s.withBuilder b with root := r, phase := phDepth }
  | _ => .next { s.withBuilder b with root := Config.root s.draws, draws := s.draws + 1, phase := phDepth }

end Sys2Proof.Machine
end

