-- ==== Sys2Proof/Machine/Dispatch.lean ====
section
/-!
DEFINITION. Machine/Dispatch.lean: each instruction's meaning, one arm a constructor.
-/

namespace Sys2Proof.Machine

def exec (i : Instr) (s : State) : Host.Outcome State Fault Refusal :=
  match i with
  | .compress => Sys2Proof.Machine.execCompress s
  | .decompress => Sys2Proof.Machine.execDecompress s
  | .idle => Sys2Proof.Machine.execIdle s
  | .init => Sys2Proof.Machine.execInit s
  | .freq => Sys2Proof.Machine.execFreq s
  | .build => Sys2Proof.Machine.execBuild s
  | .depth => Sys2Proof.Machine.execDepth s
  | .sort => Sys2Proof.Machine.execSort s
  | .assign => Sys2Proof.Machine.execAssign s
  | .hdrw => Sys2Proof.Machine.execHdrw s
  | .pack => Sys2Proof.Machine.execPack s
  | .hdrr => Sys2Proof.Machine.execHdrr s
  | .unpack => Sys2Proof.Machine.execUnpack s
  | .hdrK k => Sys2Proof.Machine.execHdrK k s
  | .hdrPair sym len => Sys2Proof.Machine.execHdrPair sym len s

end Sys2Proof.Machine
end

