-- ==== Sys2Proof/Machine/Fetch.lean ====
section
/-!
DEFINITION. Machine/Fetch.lean: which instruction runs next. The block fetches no program (R47, R69): a CMD write brings
a command, PHASE names a phase operation (R28), and inside the header phases the next container field can be taken by
itself (R205).
-/

namespace Sys2Proof.Machine

open Sys2Proof

inductive Fetched where
  /-- Run `i` at `s`. -/
  | run (i : Instr) (s : State)
  /-- A host access, at `s`. -/
  | access (e : Event) (s : State)
  /-- PHASE holds a reserved code (R97). -/
  | stuck (c : PhaseCode)
  deriving DecidableEq, Repr

/-- The phase operation PHASE names, as one step. -/
def wholePhase (s : State) : Fetched :=
  match decodePhase s.phase with
  | .ok i => .run i s
  | .rejected _ => .stuck s.phase

/-- The bytes of the container field that comes next, with its format: in HDRR those IPTR points at, the count byte first
(R67, R160), and none where ILEN = 0; in HDRW those of K and of the entry OPTR has reached (R156). -/
def fieldBytes (s : State) : Option (Format × List Byte) :=
  if s.phase = phHdrr then
    if s.iptr ≠ 0 then some (.hdrPair, [s.readIbuf s.iptr, s.readIbuf (s.iptr + 1)])
    else if s.ilen = 0 then none
    else some (.hdrK, [s.readIbuf 0])
  else if s.phase = phHdrw then
    if s.optr ≠ 0 then
      let e := tget s.ent (pairAt s.optr)
      some (.hdrPair, [e.sym, e.len])
    else some (.hdrK, [s.k])
  else none

/-- The finest step: the next container field where there is one, else the phase operation. -/
def fetchField (s : State) : Fetched :=
  match fieldBytes s with
  | none => wholePhase s
  | some (f, bs) =>
    match decode f bs with
    | .ok i => .run i s
    | .rejected _ => wholePhase s

/-- HDRR or HDRW has taken a container field by itself: its cursor has left 0, where INIT put it (R110). -/
abbrev State.headerBegun (s : State) : Prop := (s.phase = phHdrr ∧ s.iptr ≠ 0) ∨ (s.phase = phHdrw ∧ s.optr ≠ 0)

/-- A step of the sequencer: the phase operation as one step. A header phase that was begun field by field goes on with
its next field, so that no byte of the header is read or written twice (R75). Going on at that granularity is the model's
choice (assumption 16, DESIGN CHOICE; R205 and U21 leave it free). -/
def fetchPhase (s : State) : Fetched := if s.headerBegun then fetchField s else wholePhase s

/-- The next event, taken off the list, and what it brings. A reserved CMD value brings no instruction: the write is
dropped (R93). -/
def fetch (s : State) : Fetched :=
  match s.sched with
  | [] => fetchPhase s
  | .core :: es => fetchPhase { s with sched := es }
  | .field :: es => fetchField { s with sched := es }
  | .writeCmd v :: es =>
    match decodeCmd v with
    | .ok i => .run i { s with sched := es }
    | .rejected _ => .access (.writeCmd v) { s with sched := es }
  | e :: es => .access e { s with sched := es }

/-- Put the instruction of an opcode-table number where `fetch` takes its next one: a command as the next CMD write, a
PHASE code in PHASE with the cursor of a header phase at its start, a count byte at IBUF[0] and a pair at IBUF[1] under the header reader's cursor. Any instruction
comes to the block from outside it (assumption 12). -/
def placeWord (s : State) (nbits w : Nat) : State :=
  match tableFormat nbits w with
  | none => s
  | some .cmd => { s with sched := .writeCmd (BitVec.ofNat 8 w) :: s.sched }
  | some .phase =>
    { s with
      phase := BitVec.ofNat 4 w
      iptr := if w = 9 then 0 else s.iptr
      optr := if w = 7 then 0 else s.optr
      sched := .core :: s.sched }
  | some .hdrK =>
    { s with
      phase := phHdrr, iptr := 0, ilen := if s.ilen = 0 then 1 else s.ilen
      ibuf := Memory.write s.ibuf 0 (BitVec.ofNat 8 w), sched := .field :: s.sched }
  | some .hdrPair =>
    { s with
      phase := phHdrr, iptr := 1
      ibuf := Memory.write (Memory.write s.ibuf 1 (BitVec.ofNat 8 (w / 256))) 2 (BitVec.ofNat 8 w)
      sched := .field :: s.sched }

end Sys2Proof.Machine
end

