-- ==== Sys2Proof/Machine/Flags.lean ====
section
/-!
DEFINITION. Machine/Flags.lean: the block's only flags, the fields of STATUS (R23, R42, R94, R95). No operation computes
a flag from data: they change in `State.accept`, `State.finish`, `State.raise` and reset alone.
-/

namespace Sys2Proof.Machine

open Sys2Proof

/-- The code of an error kind in `STATUS.ERR` (R95, R215). -/
def ErrorKind.code : ErrorKind → BitVec 3
  | .truncatedHeader => 1
  | .unterminatedPayload => 2
  | .invalidSymbolCount => 3
  | .reservedByteInInput => 4

/-- `STATUS[0]`. -/
def Status.busyBit : Status → BitVec 1
  | .running => 1
  | .idle => 0
  | .done _ => 0

/-- `STATUS[1]`. -/
def Status.doneBit : Status → BitVec 1
  | .done _ => 1
  | .idle => 0
  | .running => 0

/-- `STATUS[4:2]`. -/
def Status.errField : Status → BitVec 3
  | .done (some e) => e.code
  | .done none => 0
  | .idle => 0
  | .running => 0

/-- The byte a host reads from register 1: bit 0 BUSY, bit 1 DONE, bits 4:2 ERR, bits 7:5 zero (R94). -/
def Status.toByte (s : Status) : Byte := (0 : BitVec 3) ++ s.errField ++ s.doneBit ++ s.busyBit

end Sys2Proof.Machine
end

