-- ==== Sys2Proof/Machine/HostPort.lean ====
section
/-!
DEFINITION. Machine/HostPort.lean: what a host access does (10_state.md rules R22 to R27, 20_memory.md rule R73). A
register access carries the whole value in one event (R66, R68).
-/

namespace Sys2Proof.Machine

open Sys2Proof

/-- Whether the host port can carry the access: a value of ILEN's or OLEN's width, an address inside the buffer's space
(R24 to R27, R60). A longer message "cannot be presented to the block at all, since ILEN cannot hold its length"
(R8, U16). -/
def Event.fits (lenW : Nat) : Event → Bool
  | .writeIlen v => v < 2 ^ lenW
  | .writeOlen v => v < 2 ^ Config.olenW lenW
  | .writeIbuf a _ => a < 2 ^ lenW
  | .readIbuf a => a < 2 ^ lenW
  | .readObuf a => a < 2 ^ Config.olenW lenW
  | .core => true
  | .field => true
  | .writeCmd _ => true
  | .writeStatus _ => true
  | .readCmd => true
  | .readStatus => true
  | .readIlen => true
  | .readOlen => true
  | .reset => true

/-- A host read returns a value. -/
def State.answer (s : State) (v : Nat) : State := { s with port := v }

/-- A host read of `width` bits returns an unspecified value: a free one (assumption 4). -/
def State.answerFree (s : State) (width : Nat) : State :=
  { s with port := (Config.hostRead width s.draws).toNat, draws := s.draws + 1 }

/-- A host read of OBUF: the byte where the host owns the buffer and the byte is part of a result (R27, R70); an
unspecified byte while BUSY = 1 (R73), at or beyond OLEN, and everywhere after an error, where OLEN is 0 (R227). -/
def State.hostReadObuf (s : State) (a : Nat) : State :=
  if s.busy ∨ s.olen ≤ a then s.answerFree 8
  else
    match Memory.lookup s.obuf a with
    | some v => s.answer v.toNat
    | none => s.answerFree 8

/-- What an access the port can carry does, and reset. A write the spec drops changes nothing: to CMD where the value is
reserved or BUSY = 1 (R93; an accepted value is an instruction and does not come here), to STATUS and OLEN always (R23,
R25), to ILEN and IBUF while BUSY = 1 (R73). `core` and `field` are the sequencer's and do not come here. -/
def doAccess (e : Event) (s : State) : State :=
  match e with
  | .core => s
  | .field => s
  | .writeCmd _ => s
  | .writeStatus _ => s
  | .writeIlen v => if s.busy then s else { s with ilen := v }
  | .writeOlen _ => s
  | .readCmd => s.answer 0
  | .readStatus => s.answer s.status.toByte.toNat
  | .readIlen => s.answer s.ilen
  | .readOlen => if s.busy then s.answerFree (Config.olenW s.lenW) else s.answer s.olen
  | .writeIbuf a v => if s.busy then s else { s with ibuf := Memory.write s.ibuf a v }
  | .readIbuf a => s.answer (s.readIbuf a).toNat
  | .readObuf a => s.hostReadObuf a
  | .reset => s.applyReset

/-- One host access, or reset; an access the port cannot carry does not happen (assumption 15). -/
def hostAccess (e : Event) (s : State) : State := if e.fits s.lenW then doAccess e s else s

end Sys2Proof.Machine
end

