-- ==== Sys2Proof/Machine/Step.lean ====
section
/-!
DEFINITION. Machine/Step.lean: one step of the machine.
-/

namespace Sys2Proof.Machine

/-- The next instruction runs, or the next host access happens; a reserved PHASE code is stuck (R97). -/
def step (s : State) : Host.Outcome State Fault Refusal :=
  match fetch s with
  | .run i t => exec i t
  | .access e t => .next (hostAccess e t)
  | .stuck c => .fault (.stuckPhase c)

def State.withFetchWord (s : State) (nbits w : Nat) : State := placeWord s nbits w

end Sys2Proof.Machine
end

