-- ==== Sys2Proof/Machine/Contract.lean ====
section
/-!
DEFINITION. Machine/Contract.lean: each command as one function of its input bytes, "for a model that wants the
whole-command meaning without phases" (R201, R202). `step` does not use them: they are the spec's second description,
which statements hold the machine against. They use bit strings, trees and sums where the phases use registers, arenas
and counters.
-/

namespace Sys2Proof.Machine.Contract

open Sys2Proof Sys2Proof.Machine

/-- `filter(M)`: M without its CR bytes (R13). -/
def filterCr (m : List Byte) : List Byte := m.filter (fun b => b != Config.cr)

/-- The extended message M' (R13). -/
def extended (m : List Byte) : List Byte := filterCr m ++ [Config.term]

/-- The distinct values of a list in first-occurrence order (R114, R201). -/
def firstOccurrences (m : List Byte) : List Byte :=
  m.foldl (fun seen b => if b ∈ seen then seen else seen ++ [b]) []

/-! ### The tree -/

/-- A CodeTreeNode (R14, R33). -/
inductive Tree where
  | leaf (sym : Byte)
  | node (zero one : Tree)
  deriving DecidableEq, Repr

/-- A tree in the queue with its key (R122). -/
structure Keyed where
  weight : Nat
  minsym : Byte
  tree : Tree
  deriving DecidableEq, Repr

def Keyed.before (x y : Keyed) : Bool := x.weight < y.weight || (x.weight == y.weight && x.minsym < y.minsym)

/-- The queue as a list sorted by key (R34: how it is built is not architectural). -/
def enqueue (x : Keyed) : List Keyed → List Keyed
  | [] => [x]
  | y :: ys => if y.before x then y :: enqueue x ys else x :: y :: ys

/-- Merge the two lowest `n` times (R121). -/
def mergeLowest : Nat → List Keyed → List Keyed
  | n + 1, x :: y :: q =>
    mergeLowest n
      (enqueue ⟨x.weight + y.weight, if x.minsym ≤ y.minsym then x.minsym else y.minsym, .node x.tree y.tree⟩ q)
  | _, q => q

/-- The leaves of a tree with their depths below a node at depth `d` (R136, R138). -/
def leafDepths : Tree → Nat → List (Byte × Nat)
  | .leaf s, d => [(s, d)]
  | .node x y, d => leafDepths x (d + 1) ++ leafDepths y (d + 1)

/-- `len(s)` for the symbols of an extended message: leaf depths of the tree built from the counts, or 1 if there is
one symbol (R137, R201). -/
def codeLength (m' : List Byte) (s : Byte) : Nat :=
  let syms := firstOccurrences m'
  if syms.length = 1 then 1
  else
    let leaves := syms.foldr (fun s q => enqueue ⟨m'.count s, s, .leaf s⟩ q) []
    match mergeLowest (syms.length - 1) leaves with
    | t :: _ => ((leafDepths t.tree 0).lookup s).getD 0
    | [] => 0

/-! ### Canonical codes -/

/-- The row at place `i` of a list in canonical order: its code value is the partial Kraft sum of the entries before it,
scaled by 2 to its length (R145). -/
def canonicalRow (sorted : List Entry) (i : Nat) : CodeEntry :=
  let e := sorted.getD i ⟨0, 0⟩
  ⟨e.sym, e.len, BitVec.ofNat 264 ((sorted.take i).map (fun m => 2 ^ (e.len.toNat - m.len.toNat))).sum⟩

/-- The CanonicalCode list of some (symbol, length) pairs (R141, R143, R145). -/
def canonicalRows (es : List Entry) : List CodeEntry :=
  (List.range es.length).map (canonicalRow (canonicalOrder es))

/-- The `len` low bits of a code, most significant first (R10, R63). -/
def bitString (len : Nat) (code : Code) : List Bool := (List.range len).map (fun i => code.getLsbD (len - 1 - i))

def codeword (r : CodeEntry) : List Bool := bitString r.len.toNat r.code

/-- Matchable (R148): a length of at least 1, and a code that fits it. -/
def matchable (r : CodeEntry) : Bool := 1 ≤ r.len.toNat && r.code.toNat < 2 ^ r.len.toNat

/-- The codeword and the symbol of every matchable row. -/
def codeTable (rows : List CodeEntry) : List (List Bool × Byte) :=
  (rows.filter matchable).map (fun r => (codeword r, r.sym))

/-! ### Bits and bytes -/

/-- The byte whose bit `7 - j` is `bits[8 i + j]`, a bit past the end being 0 (R62, R64). -/
def byteAt (bits : List Bool) (i : Nat) : Byte :=
  (List.range 8).foldl (fun v j => (v <<< 1) ||| (BitVec.ofBool (bits.getD (8 * i + j) false)).setWidth 8) 0

/-- A bit stream as bytes, padded with zero bits to a byte boundary (R62, R64). -/
def packBytes (bits : List Bool) : List Byte := (List.range ((bits.length + 7) / 8)).map (byteAt bits)

/-- The bit stream of some bytes (R62). -/
def bitsOf (bs : List Byte) : List Bool := bs.flatMap (fun b => (List.range 8).map (fun j => b.getLsbD (7 - j)))

/-! ### The two commands -/

/-- COMPRESS as one function (R201). -/
def compress (m : List Byte) : Except ErrorKind (List Byte) :=
  if Config.term ∈ m then .error .reservedByteInInput
  else
    let m' := extended m
    let es := (firstOccurrences m').map (fun s => (⟨s, BitVec.ofNat 8 (codeLength m' s)⟩ : Entry))
    let rows := canonicalRows es
    let bits := m'.flatMap (fun s => ((rows.find? (fun r => r.sym == s)).map codeword).getD [])
    .ok (BitVec.ofNat 8 es.length :: es.flatMap (fun e => [e.sym, e.len]) ++ packBytes bits)

/-- Keep the shortest non-empty run of unread bits that is a codeword, output its symbol, go on; the terminator ends the
message (R202). `cand` is the run so far; it is unbounded (R184). None where the bits run out. -/
def decodeBits (table : List (List Bool × Byte)) : List Bool → List Bool → Option (List Byte)
  | [], _ => none
  | b :: bs, cand =>
    match table.find? (fun w => w.1 == cand ++ [b]) with
    | none => decodeBits table bs (cand ++ [b])
    | some w => if w.2 = Config.term then some [] else (decodeBits table bs []).map (fun out => w.2 :: out)

/-- The pairs of a header of `k` entries (R88). -/
def headerEntries (c : List Byte) (k : Nat) : List Entry :=
  (List.range k).map (fun j => ⟨c.getD (1 + 2 * j) 0, c.getD (2 + 2 * j) 0⟩)

/-- DECOMPRESS as one function (R202). -/
def decompress (c : List Byte) : Except ErrorKind (List Byte) :=
  match c with
  | [] => .error .truncatedHeader
  | k :: _ =>
    if k = 0 then .error .invalidSymbolCount
    else if c.length < 1 + 2 * k.toNat then .error .truncatedHeader
    else
      match decodeBits (codeTable (canonicalRows (headerEntries c k.toNat))) (bitsOf (c.drop (1 + 2 * k.toNat))) [] with
      | some out => .ok out
      | none => .error .unterminatedPayload

end Sys2Proof.Machine.Contract

namespace Sys2Proof.Machine

open Sys2Proof

/-- The bytes of a result, as the buffer holds them: `OBUF[0 .. OLEN-1]` (R27). -/
def State.result (s : State) : List (Option Byte) := (List.range s.olen).map (Memory.lookup s.obuf)

/-- The outcome of a command "as either ok(bytes) or error(kind), never both" (R227). -/
def State.hasOutcome (s : State) (o : Except ErrorKind (List Byte)) : Prop :=
  match o with
  | .ok bs => s.status = .done none ∧ s.result = bs.map some
  | .error e => s.status = .done (some e) ∧ s.olen = 0

end Sys2Proof.Machine
end

