-- ==== Sys2Proof/Safety.lean ====
section
/-!
DEFINITION. Safety.lean: the invariants of the machine, the sequence table, and the terms claims are made in.
-/

namespace Sys2Proof.Machine

open Sys2Proof

/-- PHASE is one of the listed codes. -/
abbrev State.inPhase (s : State) (ps : List PhaseCode) : Prop := s.phase ∈ ps

/-- What holds between steps, whatever the host does. -/
structure Inv (s : State) : Prop where
  /-- LEN_W is "a positive integer" (R8). -/
  lenW_pos : 0 < s.lenW
  /-- The buffers are in canonical form. -/
  ibuf_wf : Memory.wf s.ibuf
  obuf_wf : Memory.wf s.obuf
  /-- PHASE never holds a reserved code (R97). -/
  phase_assigned : s.phase.toNat ≤ 10
  /-- A command is running exactly while PHASE is not IDLE (R28). -/
  busy_iff : s.busy ↔ s.phase ≠ phIdle
  /-- OLEN is 0 but after a command that ended without error (R25). -/
  olen_zero : s.status ≠ .done none → s.olen = 0
  /-- PQ is a set, listed rising (R34). -/
  queue_rising : s.pq.Pairwise (fun i j => i < j)
  /-- The phases of one direction run in that direction alone (R198). -/
  encoder_dir : s.inPhase [phFreq, phBuild, phDepth, phHdrw, phPack] → s.dir = .compress
  decoder_dir : s.inPhase [phHdrr, phUnpack] → s.dir = .decompress
  /-- From INIT to the last phase the bit packer and the candidate are empty (R110, R170, R180). -/
  bits_fresh : ¬ s.inPhase [phIdle, phInit] → s.acc = 0 ∧ s.nbits = 0 ∧ s.cand = 0 ∧ s.candlen = 0
  /-- OPTR is the number of bytes written so far (R39): none before HDRW and in the decoder before UNPACK, the header in
  PACK (R155), and inside HDRW an odd part of it. -/
  optr_zero : ¬ s.inPhase [phIdle, phInit, phHdrw, phPack] → s.optr = 0
  optr_hdrw : s.phase = phHdrw →
    s.optr = 0 ∨ (s.optr % 2 = 1 ∧ s.optr < payloadAddr s.k.toNat)
  optr_pack : s.phase = phPack → s.optr = payloadAddr s.k.toNat
  /-- `0 <= IPTR <= ILEN` from INIT on (R39). -/
  iptr_le : ¬ s.inPhase [phIdle, phInit] → s.iptr ≤ s.ilen
  /-- Inside HDRR IPTR is 0 or at a pair of a header that is all there; after it, at the payload (R160, R180). -/
  iptr_hdrr : s.phase = phHdrr →
    s.iptr = 0 ∨ (s.iptr % 2 = 1 ∧ s.iptr < payloadAddr s.k.toNat ∧
      payloadAddr s.k.toNat ≤ s.ilen)
  iptr_payload : s.inPhase [phSort, phAssign, phUnpack] → s.dir = .decompress →
    s.iptr = payloadAddr s.k.toNat

/-- What each phase finds in the tables when it starts: INIT's clearing before FREQ (R110), at least one entry in every
phase that uses the tables (R32), and, in the encoder, each byte of M' carried from ENT through CT to EM (R174). -/
structure Covered (s : State) : Prop where
  freq_clear : s.phase = phFreq → s.k = 0 ∧ ∀ x : Byte, tget s.freq x.toNat = 0
  has_entries : s.inPhase [phBuild, phDepth, phSort, phAssign, phHdrw, phPack, phUnpack] → s.k ≠ 0
  in_entries : s.inPhase [phBuild, phDepth, phSort] → s.dir = .compress →
    ∀ b ∈ Contract.extended s.message, ∃ e ∈ s.entries, e.sym = b
  in_rows : s.phase = phAssign → s.dir = .compress →
    ∀ b ∈ Contract.extended s.message, ∃ r ∈ s.rows, r.sym = b
  in_map : s.inPhase [phHdrw, phPack] →
    ∀ b ∈ Contract.extended s.message, (tget s.em b.toNat).valid = true

/-- The counts of the symbols in ENT[0 .. K-1], the leaf weights of BUILD (R121). -/
def State.leafCounts (s : State) : List Nat := s.entries.map (fun e => tget s.freq e.sym.toNat)

/-- Nothing overflows (R8): every register whose width LEN_W sets holds a number of that width, and the buffers lie in
their address spaces (R60); with the two bounds on a command's tables this rests on. -/
structure Fits (s : State) : Prop where
  ilen_lt : s.ilen < 2 ^ s.lenW
  iptr_lt : s.iptr < 2 ^ s.lenW
  olen_lt : s.olen < 2 ^ Config.olenW s.lenW
  optr_lt : s.optr < 2 ^ Config.olenW s.lenW
  port_lt : s.port < 2 ^ Config.olenW s.lenW
  /-- No count overflows (R116). -/
  freq_lt : ∀ x : Byte, tget s.freq x.toNat < 2 ^ Config.cntW s.lenW
  /-- No weight overflows (R126). -/
  weight_lt : ∀ i, (tget s.node i).weight < 2 ^ Config.cntW s.lenW
  ibuf_lt : ∀ c ∈ s.ibuf, c.1 < 2 ^ s.lenW
  obuf_lt : ∀ c ∈ s.obuf, c.1 < 2 ^ Config.olenW s.lenW
  /-- "The sum of all counts after FREQ is n' + 1 <= ILEN + 1 <= 2^LEN_W" (R116). -/
  counts_sum : s.phase = phBuild → s.leafCounts.sum ≤ 2 ^ s.lenW
  /-- In the encoder an entry stands for a byte of the message or the terminator (R114). -/
  few_entries : s.inPhase [phBuild, phDepth, phSort, phAssign, phHdrw, phPack] → s.dir = .compress →
    s.k.toNat ≤ s.ilen + 1

/-- The sequence table of R198: the successor of a phase that is run in a direction, none where it is not run. -/
def successor (p : PhaseCode) (d : Dir) : Option PhaseCode :=
  if p = phIdle then some phIdle
  else if p = phInit then some (if d = .compress then phFreq else phHdrr)
  else if p = phSort then some phAssign
  else if p = phAssign then some (if d = .compress then phHdrw else phUnpack)
  else if d = .compress then
    if p = phFreq then some phBuild
    else if p = phBuild then some phDepth
    else if p = phDepth then some phSort
    else if p = phHdrw then some phPack
    else if p = phPack then some phIdle
    else none
  else if p = phHdrr then some phSort
  else if p = phUnpack then some phIdle
  else none

/-- NODE[0 .. 2K-2] is a tree with root 2K - 2: every internal node's children come before it, and every other node is
the child of one internal node (R33, R128). -/
structure TreeShaped (s : State) : Prop where
  has_leaf : s.k ≠ 0
  root_last : s.root.toNat = 2 * s.k.toNat - 2
  child_before : ∀ i, s.k.toNat ≤ i → i ≤ 2 * s.k.toNat - 2 →
    (tget s.node i).c0.toNat < i ∧ (tget s.node i).c1.toNat < i ∧ (tget s.node i).c0 ≠ (tget s.node i).c1
  one_parent : ∀ x, x < 2 * s.k.toNat - 2 → ∃ i, (s.k.toNat ≤ i ∧ i ≤ 2 * s.k.toNat - 2 ∧
      ((tget s.node i).c0.toNat = x ∨ (tget s.node i).c1.toNat = x)) ∧
    ∀ j, (s.k.toNat ≤ j ∧ j ≤ 2 * s.k.toNat - 2 ∧
      ((tget s.node j).c0.toNat = x ∨ (tget s.node j).c1.toNat = x)) → j = i

/-- The symbols of ENT[0 .. K-1] are pairwise distinct (R117). -/
def State.distinctSymbols (s : State) : Prop := s.entries.Pairwise (fun e f => e.sym ≠ f.sym)

/-- CT[0 .. K-1] is in rising order of length, as SORT leaves it (R143). -/
def State.rowsRising (s : State) : Prop :=
  ∀ i j, i < j → j < s.k.toNat → (tget s.ct i).len.toNat ≤ (tget s.ct j).len.toNat

/-- The properties of a finished code table that R149 names: "no codeword is a prefix of another", and "for all pairs with
equal codeLength and a.symbol < b.symbol, a.codeValue < b.codeValue". -/
structure CanonicalCode (rows : List CodeEntry) : Prop where
  prefix_free : rows.Pairwise (fun r q =>
    ¬ Contract.codeword r <+: Contract.codeword q ∧ ¬ Contract.codeword q <+: Contract.codeword r)
  symbol_order : ∀ r ∈ rows, ∀ q ∈ rows, r.len = q.len → r.sym.toNat < q.sym.toNat → r.code.toNat < q.code.toNat

/-- `2^255` times the Kraft sum of some code lengths of at most 255 (R10, R14). -/
def kraft (ls : List Nat) : Nat := (ls.map (fun l => 2 ^ (255 - l))).sum

end Sys2Proof.Machine
end

