-- ==== Sys2Proof/Certificates/Slice0/Obligations.lean ====
section
/-!
DEFINITION. Certificates/Slice0/Obligations.lean: the statements for the provers. A frame is written as an equality:
`t = { s with f := t.f, ... }` says that t differs from s in the named fields alone.
-/

open Sys2Proof Sys2Proof.Machine

/-! ### Commands, reset and the sequencer -/

/-- R240: what the reset event leaves, at any time; and the state the machine starts in holds the same. The rest of the
state it leaves is unspecified, and nothing is said of it. -/
def Obligations.ResetEventLeavesIdleBlock : Prop :=
  (∀ (s : State) (es : List Event), ∃ t, step { s with sched := .reset :: es } = .next t ∧
    t.status.toByte = 0x00 ∧ t.ilen = 0 ∧ t.olen = 0 ∧ t.phase = phIdle ∧ t.sched = es) ∧
  State.reset.status.toByte = 0x00 ∧ State.reset.ilen = 0 ∧ State.reset.olen = 0 ∧ State.reset.phase = phIdle

/-- R196, R93: a CMD write of 0x01 or 0x02 while BUSY = 0 is accepted; every other one changes no state. -/
def Obligations.CmdWriteIsAcceptedOrDropped : Prop :=
  ∀ (s : State) (v : Byte) (es : List Event), step { s with sched := .writeCmd v :: es } = .next (
    if ¬ s.busy ∧ v = 0x01 then
      { s with sched := es, status := .running, olen := 0, dir := .compress, phase := phInit }
    else if ¬ s.busy ∧ v = 0x02 then
      { s with sched := es, status := .running, olen := 0, dir := .decompress, phase := phInit }
    else { s with sched := es })

/-- The two commands as instructions: accepted while BUSY = 0, dropped while BUSY = 1 (R196). -/
def Obligations.CommandsCompleteWhenNotBusy : Prop :=
  ∀ s : State,
    (¬ s.busy →
      exec .compress s = .next { s with status := .running, olen := 0, dir := .compress, phase := phInit } ∧
      exec .decompress s = .next { s with status := .running, olen := 0, dir := .decompress, phase := phInit }) ∧
    (s.busy → exec .compress s = .next s ∧ exec .decompress s = .next s)

/-- R211. -/
def Obligations.IdleChangesNoState : Prop :=
  (∀ s : State, exec .idle s = .next s) ∧
  ∀ s : State, s.phase = phIdle → s.sched = [] → step s = .next s

/-- When the next event brings bytes or a PHASE code that decode to an instruction, the step is that instruction's
meaning at the state with the event taken off the list. A header phase begun field by field goes on with its next field
(the model's choice, assumption 16). -/
def Obligations.StepRunsDecodedInstruction : Prop :=
  ∀ (s : State) (i : Instr) (es : List Event),
    (¬ s.headerBegun → decodePhase s.phase = .ok i → s.sched = [] → step s = exec i s) ∧
    (¬ s.headerBegun → decodePhase s.phase = .ok i → s.sched = .core :: es → step s = exec i { s with sched := es }) ∧
    (∀ f bs, s.headerBegun → fieldBytes s = some (f, bs) → decode f bs = .ok i →
      (s.sched = [] → step s = exec i s) ∧ (s.sched = .core :: es → step s = exec i { s with sched := es })) ∧
    (∀ v, decode .cmd [v] = .ok i → s.sched = .writeCmd v :: es → step s = exec i { s with sched := es }) ∧
    (∀ f bs, fieldBytes s = some (f, bs) → decode f bs = .ok i → s.sched = .field :: es →
      step s = exec i { s with sched := es }) ∧
    (fieldBytes s = none → decodePhase s.phase = .ok i → s.sched = .field :: es →
      step s = exec i { s with sched := es })

/-- R97: codes 11 to 15 are stuck, wherever the sequencer would move: with no event listed, and where the next event is
a step of the sequencer, whole or finest. -/
def Obligations.ReservedPhaseCodeIsStuck : Prop :=
  ∀ (s : State) (es : List Event), 11 ≤ s.phase.toNat → (s.sched = [] ∨ s.sched = .core :: es ∨ s.sched = .field :: es) →
    step s = .fault (.stuckPhase s.phase)

/-- R198: a phase that completes without error writes its successor, in each direction it is run in. -/
def Obligations.PhaseWritesItsSuccessor : Prop :=
  ∀ (s t : State) (i : Instr) (q : PhaseCode),
    decodePhase s.phase = .ok i → successor s.phase s.dir = some q → exec i s = .next t →
    t.phase = q ∨ (t.phase = phIdle ∧ t.olen = 0 ∧ ∃ e, t.status = .done (some e))

/-- BUSY falls through the finish sequence, an abort or reset, and in no other way (R199, R226, R241). That OPTR still
holds the number that finish wrote to OLEN is the model's choice (assumption 13, DESIGN CHOICE): R44 leaves OPTR
unspecified once the command has ended. -/
def Obligations.BusyEndsByFinishAbortOrReset : Prop :=
  ∀ s t : State, step s = .next t → s.busy → ¬ t.busy →
    t.phase = phIdle ∧
    ((t.status = .done none ∧ t.olen = t.optr) ∨ (∃ e, t.status = .done (some e) ∧ t.olen = 0) ∨
      (s.sched.head? = some .reset ∧ t.status = .idle ∧ t.olen = 0))

/-- DONE, ERR and the result stay as they are until a command is accepted or reset is applied (R229, R245). -/
def Obligations.ResultStaysUntilNextCommand : Prop :=
  ∀ s t : State, Inv s → ¬ s.busy → step s = .next t → ¬ t.busy → s.sched.head? ≠ some .reset →
    t.status = s.status ∧ t.olen = s.olen ∧ t.obuf = s.obuf ∧ t.phase = s.phase

/-- No instruction writes IBUF or ILEN (R24, R26), nor the parameter LEN_W, nor the model's own list of events, read port
or reset count. -/
def Obligations.NoInstructionWritesItsInput : Prop :=
  ∀ (i : Instr) (s t : State), exec i s = .next t →
    t.ibuf = s.ibuf ∧ t.ilen = s.ilen ∧ t.sched = s.sched ∧ t.port = s.port ∧ t.epoch = s.epoch ∧
    t.lenW = s.lenW

/-! ### The host port -/

/-- R94, R95, R23: the byte a host reads from STATUS, for each of the seven legal values. -/
def Obligations.StatusByteLayout : Prop :=
  Status.idle.toByte = 0x00 ∧ Status.running.toByte = 0x01 ∧ (Status.done none).toByte = 0x02 ∧
  (Status.done (some .truncatedHeader)).toByte = 0x06 ∧ (Status.done (some .unterminatedPayload)).toByte = 0x0A ∧
  (Status.done (some .invalidSymbolCount)).toByte = 0x0E ∧ (Status.done (some .reservedByteInInput)).toByte = 0x12

/-- Host accesses while BUSY = 1 (R73, and R22, R23 and R25 for the rest): every write is dropped, CMD reads 0, STATUS,
ILEN and IBUF read true, and an OLEN or OBUF read returns a number of its width and changes nothing else of the block. That
number is free: nothing more is said of it. -/
def Obligations.HostAccessWhileBusy : Prop :=
  ∀ (s : State) (es : List Event), s.busy →
    (∀ v, step { s with sched := .writeCmd v :: es } = .next { s with sched := es }) ∧
    (∀ v, step { s with sched := .writeIlen v :: es } = .next { s with sched := es }) ∧
    (∀ a v, step { s with sched := .writeIbuf a v :: es } = .next { s with sched := es }) ∧
    (∀ v, step { s with sched := .writeStatus v :: es } = .next { s with sched := es }) ∧
    (∀ v, step { s with sched := .writeOlen v :: es } = .next { s with sched := es }) ∧
    step { s with sched := .readCmd :: es } = .next { s with sched := es, port := 0 } ∧
    step { s with sched := .readStatus :: es } = .next { s with sched := es, port := 0x01 } ∧
    step { s with sched := .readIlen :: es } = .next { s with sched := es, port := s.ilen } ∧
    (∀ a, a < 2 ^ s.lenW → step { s with sched := .readIbuf a :: es } =
      .next { s with sched := es, port := (s.readIbuf a).toNat }) ∧
    (∃ p, p < 2 ^ (s.lenW + 8) ∧
      step { s with sched := .readOlen :: es } = .next { s with sched := es, port := p, draws := s.draws + 1 }) ∧
    (∀ a, a < 2 ^ (s.lenW + 8) → ∃ p, p < 256 ∧ step { s with sched := .readObuf a :: es } =
      .next { s with sched := es, port := p, draws := s.draws + 1 })

/-- Host accesses while BUSY = 0: ILEN and IBUF are written, CMD reads 0, the other registers, IBUF and the result bytes
read true, an OBUF byte at or beyond OLEN reads any value, and writes to STATUS and OLEN are dropped (R22 to R27). -/
def Obligations.HostAccessWhileNotBusy : Prop :=
  ∀ (s : State) (es : List Event), ¬ s.busy →
    (∀ v, v < 2 ^ s.lenW → step { s with sched := .writeIlen v :: es } = .next { s with sched := es, ilen := v }) ∧
    (∀ a v, a < 2 ^ s.lenW → ∃ t, step { s with sched := .writeIbuf a v :: es } = .next t ∧
      t = { s with sched := es, ibuf := t.ibuf } ∧ t.readIbuf a = v ∧
      ∀ b, b ≠ a → t.readIbuf b = s.readIbuf b) ∧
    step { s with sched := .readCmd :: es } = .next { s with sched := es, port := 0 } ∧
    step { s with sched := .readStatus :: es } = .next { s with sched := es, port := s.status.toByte.toNat } ∧
    step { s with sched := .readIlen :: es } = .next { s with sched := es, port := s.ilen } ∧
    (∀ a, a < 2 ^ s.lenW → step { s with sched := .readIbuf a :: es } =
      .next { s with sched := es, port := (s.readIbuf a).toNat }) ∧
    step { s with sched := .readOlen :: es } = .next { s with sched := es, port := s.olen } ∧
    (∀ a v, a < s.olen → a < 2 ^ (s.lenW + 8) → Memory.lookup s.obuf a = some v →
      step { s with sched := .readObuf a :: es } = .next { s with sched := es, port := v.toNat }) ∧
    (∀ a, s.olen ≤ a → a < 2 ^ (s.lenW + 8) → ∃ p, p < 256 ∧ step { s with sched := .readObuf a :: es } =
      .next { s with sched := es, port := p, draws := s.draws + 1 }) ∧
    (∀ v, step { s with sched := .writeStatus v :: es } = .next { s with sched := es }) ∧
    (∀ v, step { s with sched := .writeOlen v :: es } = .next { s with sched := es })

/-- A length of more than LEN_W bits "cannot be presented to the block at all, since ILEN cannot hold its length", and no
error is recorded (R8, U16); nor can an address outside a buffer's space (R60). That the model lists such an access as an
event that changes nothing is its choice (assumption 15). -/
def Obligations.AccessBeyondTheWidthsDoesNothing : Prop :=
  ∀ (s : State) (es : List Event) (n : Nat) (b : Byte),
    (2 ^ s.lenW ≤ n →
      step { s with sched := .writeIlen n :: es } = .next { s with sched := es } ∧
      step { s with sched := .writeIbuf n b :: es } = .next { s with sched := es } ∧
      step { s with sched := .readIbuf n :: es } = .next { s with sched := es }) ∧
    (2 ^ (s.lenW + 8) ≤ n → step { s with sched := .readObuf n :: es } = .next { s with sched := es })

/-! ### INIT and FREQ -/

/-- R110. -/
def Obligations.InitClearsCommandState : Prop :=
  ∀ s : State, ∃ t, exec .init s = .next t ∧
    t = { s with
      k := 0, nn := 0, iptr := 0, optr := 0, acc := 0, nbits := 0, cand := 0, candlen := 0, pq := []
      freq := t.freq, em := t.em, phase := if s.dir = .compress then phFreq else phHdrr } ∧
    (∀ x : Byte, tget t.freq x.toNat = 0) ∧
    ∀ x : Byte, tget t.em x.toNat = { tget s.em x.toNat with valid := false }

/-- FREQ on a message without a byte 0, from the tables INIT leaves: the counts are those of M', and ENT lists its
distinct symbols in first-occurrence order (R111, R112, R114, R115). That an entry keeps its length is the model's choice
(assumption 18, DEDUCED). -/
def Obligations.FreqCountsMessage : Prop :=
  ∀ s : State, s.k = 0 → (∀ x : Byte, tget s.freq x.toNat = 0) → Config.term ∉ s.message →
    ∃ t, exec .freq s = .next t ∧
      t = { s with freq := t.freq, ent := t.ent, k := t.k, iptr := s.ilen, phase := phBuild } ∧
      t.entries.map Entry.sym = Contract.firstOccurrences (Contract.extended s.message) ∧
      (∀ x : Byte, tget t.freq x.toNat = (Contract.extended s.message).count x) ∧
      (∀ j, (tget t.ent j).len = (tget s.ent j).len) ∧
      ∀ j, t.k.toNat ≤ j → tget t.ent j = tget s.ent j

/-- R117: the state after a successful FREQ. -/
def Obligations.FreqLeavesProperTable : Prop :=
  ∀ s : State, s.k = 0 → (∀ x : Byte, tget s.freq x.toNat = 0) → Config.term ∉ s.message →
    ∃ t, exec .freq s = .next t ∧
      1 ≤ t.k.toNat ∧ t.k.toNat ≤ 255 ∧ t.distinctSymbols ∧ (tget t.ent (t.k.toNat - 1)).sym = 0 ∧
      (∀ e ∈ t.entries, 1 ≤ tget t.freq e.sym.toNat) ∧
      (∀ x : Byte, (∀ e ∈ t.entries, e.sym ≠ x) → tget t.freq x.toNat = 0) ∧
      tget t.freq 0 = 1 ∧ tget t.freq 13 = 0 ∧
      ((List.range 256).map (fun x => tget t.freq x)).sum = (Contract.filterCr s.message).length + 1

/-- R219: some byte of the input is 0. That the abort leaves every field the frame does not name as it was, OBUF and the
internal state, is the model's choice (assumption 13, DESIGN CHOICE): R227 leaves it unspecified. -/
def Obligations.FreqRejectsReservedByte : Prop :=
  ∀ s : State, (∃ a, a < s.ilen ∧ s.readIbuf a = 0) →
    ∃ t, exec .freq s = .next t ∧
      t = { s with
        freq := t.freq, ent := t.ent, k := t.k, iptr := t.iptr
        olen := 0, status := .done (some .reservedByteInInput), phase := phIdle }

/-! ### BUILD and DEPTH -/

/-- R121: the arena BUILD leaves. Each internal node's children are, in the order popped, the two lowest keys among the
nodes that exist and have no parent yet. That a leaf keeps its old c0, c1 and depth and an internal node its old sym and
depth is the model's choice (assumption 18, DEDUCED): R33 calls those fields not meaningful. -/
def Obligations.BuildMergesLowestKeys : Prop :=
  ∀ s : State, s.k ≠ 0 → s.distinctSymbols →
    ∃ t, exec .build s = .next t ∧
      t = { s with node := t.node, pq := [t.root], nn := t.nn, root := t.root, phase := phDepth } ∧
      t.nn.toNat = 2 * s.k.toNat - 1 ∧ TreeShaped t ∧
      (∀ j, j < s.k.toNat → tget t.node j =
        { tget s.node j with
          leaf := true, sym := (tget s.ent j).sym, weight := tget s.freq (tget s.ent j).sym.toNat
          minsym := (tget s.ent j).sym }) ∧
      (∀ i, s.k.toNat ≤ i → i ≤ 2 * s.k.toNat - 2 →
        let x := (tget t.node i).c0
        let y := (tget t.node i).c1
        tget t.node i =
          { tget s.node i with
            leaf := false, c0 := x, c1 := y
            weight := (tget t.node x.toNat).weight + (tget t.node y.toNat).weight
            minsym := minByte (tget t.node x.toNat).minsym (tget t.node y.toNat).minsym } ∧
        keyLt (tget t.node x.toNat) (tget t.node y.toNat) = true ∧
        ∀ z, z < i →
          (∀ j, s.k.toNat ≤ j → j < i → (tget t.node j).c0.toNat ≠ z ∧ (tget t.node j).c1.toNat ≠ z) →
          z ≠ x.toNat → z ≠ y.toNat → keyLt (tget t.node y.toNat) (tget t.node z) = true) ∧
      ∀ i, 2 * s.k.toNat - 1 ≤ i → tget t.node i = tget s.node i

/-- DEPTH on a tree: the root is at depth 0, each child one deeper than its parent, and each entry's length is its leaf's
depth, or 1 where there is one entry (R136, R137). -/
def Obligations.DepthMeasuresLeaves : Prop :=
  ∀ s : State, TreeShaped s →
    ∃ t, exec .depth s = .next t ∧
      t = { s with node := t.node, ent := t.ent, phase := phSort } ∧
      (tget t.node s.root.toNat).depth = 0 ∧
      (∀ i, s.k.toNat ≤ i → i ≤ 2 * s.k.toNat - 2 →
        (tget t.node (tget s.node i).c0.toNat).depth.toNat = (tget t.node i).depth.toNat + 1 ∧
        (tget t.node (tget s.node i).c1.toNat).depth.toNat = (tget t.node i).depth.toNat + 1) ∧
      (∀ i, tget t.node i = { tget s.node i with depth := (tget t.node i).depth }) ∧
      (∀ i, 2 * s.k.toNat - 1 ≤ i → tget t.node i = tget s.node i) ∧
      (∀ j, j < s.k.toNat →
        tget t.ent j = ⟨(tget s.ent j).sym, if s.k = 1 then 1 else (tget t.node j).depth⟩) ∧
      ∀ j, s.k.toNat ≤ j → tget t.ent j = tget s.ent j

/-- R139: the lengths BUILD and DEPTH give are between 1 and K - 1 and fill the Kraft sum for K >= 2; for K = 1 the one
length is 1 and the sum is 1/2. -/
def Obligations.CodeLengthsFillKraftSum : Prop :=
  ∀ s : State, s.k ≠ 0 →
    ∃ t u, exec .build s = .next t ∧ exec .depth t = .next u ∧
      (2 ≤ s.k.toNat →
        kraft (u.entries.map (fun e => e.len.toNat)) = 2 ^ 255 ∧
        ∀ e ∈ u.entries, 1 ≤ e.len.toNat ∧ e.len.toNat ≤ s.k.toNat - 1) ∧
      (s.k = 1 →
        kraft (u.entries.map (fun e => e.len.toNat)) = 2 ^ 254 ∧ u.entries.map Entry.len = [1])

/-- The lengths BUILD and DEPTH give cost no more than those of any prefix code: any lengths that satisfy the Kraft
inequality (R129). -/
def Obligations.CodeIsOptimal : Prop :=
  ∀ s : State, 2 ≤ s.k.toNat →
    ∃ t u, exec .build s = .next t ∧ exec .depth t = .next u ∧
      ∀ len : Nat → Nat, (∑ j ∈ Finset.range s.k.toNat, (1 / 2 : ℚ) ^ len j) ≤ 1 →
        ∑ j ∈ Finset.range s.k.toNat, tget s.freq (tget s.ent j).sym.toNat * (tget u.ent j).len.toNat ≤
        ∑ j ∈ Finset.range s.k.toNat, tget s.freq (tget s.ent j).sym.toNat * len j

/-! ### SORT and ASSIGN -/

/-- R141: CT is ENT in the order of length, then symbol. -/
def Obligations.SortPutsEntriesInCanonicalOrder : Prop :=
  ∀ s : State, ∃ t, exec .sort s = .next t ∧
    t = { s with ct := t.ct, phase := phAssign } ∧
    (t.rows.map (fun r => (⟨r.sym, r.len⟩ : Entry))).Perm s.entries ∧
    t.rows.Pairwise (fun r q => r.len.toNat < q.len.toNat ∨ (r.len = q.len ∧ r.sym.toNat ≤ q.sym.toNat)) ∧
    (∀ i, (tget t.ct i).code = (tget s.ct i).code) ∧
    ∀ i, s.k.toNat ≤ i → tget t.ct i = tget s.ct i

/-- ASSIGN on rows in rising order of length: each code value is the partial Kraft sum before it, scaled by 2 to its
length, with no overflow (R143, R145, R146); EM takes the rows in the encoder and stays in the decoder. -/
def Obligations.AssignCountsCanonicalCodes : Prop :=
  ∀ s : State, s.rowsRising →
    ∃ t, exec .assign s = .next t ∧
      t = { s with
        ct := t.ct, code := t.code, prevlen := t.prevlen, em := t.em
        phase := if s.dir = .compress then phHdrw else phUnpack } ∧
      (∀ i, (tget t.ct i).sym = (tget s.ct i).sym ∧ (tget t.ct i).len = (tget s.ct i).len) ∧
      (∀ i, i < s.k.toNat → (tget t.ct i).code.toNat =
        ((List.range i).map (fun m => 2 ^ ((tget s.ct i).len.toNat - (tget s.ct m).len.toNat))).sum) ∧
      (∀ i, s.k.toNat ≤ i → (tget t.ct i).code = (tget s.ct i).code) ∧
      (s.k ≠ 0 → t.code = (tget t.ct (s.k.toNat - 1)).code + 1 ∧ t.prevlen = (tget s.ct (s.k.toNat - 1)).len) ∧
      (s.k = 0 → t.code = 0 ∧ t.prevlen = (tget s.ct 0).len) ∧
      (s.dir = .compress → ∀ x : Byte, tget t.em x.toNat =
        match t.rows.reverse.find? (fun r => r.sym == x) with
        | some r => ⟨true, r.len, r.code⟩
        | none => tget s.em x.toNat) ∧
      (s.dir = .decompress → t.em = s.em)

/-- Whatever the entries, the codewords of the matchable rows that SORT and ASSIGN leave are prefix-free (R147,
R187 (b)). -/
def Obligations.MatchableCodesArePrefixFree : Prop :=
  ∀ s : State, ∃ t u, exec .sort s = .next t ∧ exec .assign t = .next u ∧
    u.rows.Pairwise (fun r q => Contract.matchable r = true → Contract.matchable q = true →
      ¬ Contract.codeword r <+: Contract.codeword q ∧ ¬ Contract.codeword q <+: Contract.codeword r)

/-- The three properties of R149 over the encoder's phases BUILD, DEPTH, SORT and ASSIGN: Kraft completeness for K >= 2
(R139), prefix-freeness and symbol-order monotonicity. -/
def Obligations.EncoderCodesAreCanonical : Prop :=
  ∀ s : State, s.k ≠ 0 →
    ∃ t u v w, exec .build s = .next t ∧ exec .depth t = .next u ∧ exec .sort u = .next v ∧ exec .assign v = .next w ∧
      CanonicalCode w.rows ∧ (2 ≤ s.k.toNat → kraft (w.rows.map (fun r => r.len.toNat)) = 2 ^ 255)

/-- Symbol-order monotonicity on any entries at all, so for every header a decoder can be given (R145 (b), R148, R149). -/
def Obligations.EqualLengthCodesFollowSymbols : Prop :=
  ∀ s : State, ∃ t u, exec .sort s = .next t ∧ exec .assign t = .next u ∧
    ∀ r ∈ u.rows, ∀ q ∈ u.rows, r.len = q.len → r.sym.toNat < q.sym.toNat → r.code.toNat < q.code.toNat

/-- Where the lengths fill the Kraft sum exactly, every code fits its length, the last is all ones, and each row's code
lies wholly before the next as a fraction (R147). -/
def Obligations.CompleteCodesFitTheirLengths : Prop :=
  ∀ s : State, s.rowsRising → kraft (s.rows.map (fun r => r.len.toNat)) = 2 ^ 255 →
    ∃ t, exec .assign s = .next t ∧
      (∀ r ∈ t.rows, r.code.toNat < 2 ^ r.len.toNat) ∧
      (tget t.ct (s.k.toNat - 1)).code.toNat = 2 ^ (tget s.ct (s.k.toNat - 1)).len.toNat - 1 ∧
      t.rows.Pairwise (fun r q =>
        (r.code.toNat + 1) * 2 ^ (255 - r.len.toNat) ≤ q.code.toNat * 2 ^ (255 - q.len.toNat))

/-- The phases complete in every state, inside a run or not, and change the named state only: BUILD, DEPTH, SORT, ASSIGN,
HDRW and UNPACK always, FREQ where no byte of the input is 0, PACK from the empty bit packer INIT leaves where every byte
of M' has an EM entry. For K = 0, which no run reaches, ROOT after BUILD is the model's free value (assumption 5): nothing
is said of it. What PACK and UNPACK leave in the internal state and in OBUF once the command has ended is the model's
choice (assumption 13, DESIGN CHOICE), as are the fields of NODE that BUILD leaves alone (assumption 18, DEDUCED). -/
def Obligations.PhasesCompleteInEveryState : Prop :=
  ∀ s : State,
    (Config.term ∉ s.message → ∃ t, exec .freq s = .next t ∧
      t = { s with freq := t.freq, ent := t.ent, k := t.k, iptr := s.ilen, phase := phBuild }) ∧
    (∃ t, exec .build s = .next t ∧
      t = { s with node := t.node, pq := t.pq, nn := t.nn, root := t.root, draws := t.draws, phase := phDepth } ∧
      (s.k ≠ 0 → t.draws = s.draws)) ∧
    (∃ t, exec .depth s = .next t ∧ t = { s with node := t.node, ent := t.ent, phase := phSort }) ∧
    (∃ t, exec .sort s = .next t ∧ t = { s with ct := t.ct, phase := phAssign }) ∧
    (∃ t, exec .assign s = .next t ∧
      t = { s with
        ct := t.ct, code := t.code, prevlen := t.prevlen, em := t.em
        phase := if s.dir = .compress then phHdrw else phUnpack }) ∧
    (∃ t, exec .hdrw s = .next t ∧ t = { s with obuf := t.obuf, optr := t.optr, phase := phPack }) ∧
    (s.acc = 0 → s.nbits = 0 → (∀ b ∈ Contract.extended s.message, (tget s.em b.toNat).valid = true) →
      ∃ t, exec .pack s = .next t ∧
      t = { s with
        acc := 0, nbits := 0, iptr := s.ilen, obuf := t.obuf, optr := t.optr
        olen := t.optr, status := .done none, phase := phIdle }) ∧
    (∃ t, exec .unpack s = .next t ∧
      t = { s with
        status := t.status, olen := t.olen, phase := phIdle, cand := t.cand, candlen := t.candlen
        bitpos := t.bitpos, iptr := t.iptr, obuf := t.obuf, optr := t.optr, draws := t.draws } ∧
      ((t.status = .done none ∧ t.olen = t.optr) ∨
        (t.status = .done (some .unterminatedPayload) ∧ t.olen = 0)))

/-! ### The header codec -/

/-- R156. -/
def Obligations.HdrwWritesCountAndPairs : Prop :=
  ∀ s : State, ∃ t, exec .hdrw s = .next t ∧
    t = { s with obuf := t.obuf, optr := 1 + 2 * s.k.toNat, phase := phPack } ∧
    Memory.lookup t.obuf 0 = some s.k ∧
    (∀ j, j < s.k.toNat →
      Memory.lookup t.obuf (1 + 2 * j) = some (tget s.ent j).sym ∧
      Memory.lookup t.obuf (2 + 2 * j) = some (tget s.ent j).len) ∧
    ∀ a, 1 + 2 * s.k.toNat ≤ a → Memory.lookup t.obuf a = Memory.lookup s.obuf a

/-- HDRR on a whole header: K and ENT are the bytes of the header, and IPTR is at the payload (R160, R88). -/
def Obligations.HdrrReadsCountAndPairs : Prop :=
  ∀ s : State, s.ilen ≠ 0 → s.readIbuf 0 ≠ 0 → 1 + 2 * (s.readIbuf 0).toNat ≤ s.ilen →
    ∃ t, exec .hdrr s = .next t ∧
      t = { s with k := s.readIbuf 0, ent := t.ent, iptr := t.iptr, phase := phSort } ∧
      t.iptr = 1 + 2 * (s.readIbuf 0).toNat ∧
      (∀ j, j < (s.readIbuf 0).toNat → tget t.ent j = ⟨s.readIbuf (1 + 2 * j), s.readIbuf (2 + 2 * j)⟩) ∧
      ∀ j, (s.readIbuf 0).toNat ≤ j → tget t.ent j = tget s.ent j

/-- R216, R218: the two errors of HDRR, their causes, and the abort that follows. That the abort leaves K as HDRR loaded it
and every other table, cursor and OBUF as it was is the model's choice (assumption 13, DESIGN CHOICE): R227 leaves them
unspecified. -/
def Obligations.HdrrRaisesOnBadHeader : Prop :=
  ∀ s : State,
    (s.ilen = 0 → exec .hdrr s =
      .next { s with olen := 0, status := .done (some .truncatedHeader), phase := phIdle }) ∧
    (s.ilen ≠ 0 → s.readIbuf 0 = 0 → exec .hdrr s =
      .next { s with k := 0, olen := 0, status := .done (some .invalidSymbolCount), phase := phIdle }) ∧
    (s.ilen ≠ 0 → s.readIbuf 0 ≠ 0 → s.ilen < 1 + 2 * (s.readIbuf 0).toNat → exec .hdrr s =
      .next { s with
        k := s.readIbuf 0, olen := 0, status := .done (some .truncatedHeader), phase := phIdle })

/-- R163: what HDRW writes, HDRR reads back, field for field and in the same order, whatever payload follows. -/
def Obligations.HeaderRoundTrip : Prop :=
  ∀ s : State, s.k ≠ 0 → ∃ t, exec .hdrw s = .next t ∧
    ∀ u : State, 1 + 2 * s.k.toNat ≤ u.ilen →
      (∀ a, a < 1 + 2 * s.k.toNat → Memory.lookup t.obuf a = some (u.readIbuf a)) →
      ∃ v, exec .hdrr u = .next v ∧ v.k = s.k ∧ v.entries = s.entries

/-- HDR.K in the header reader: the count byte is loaded, and the tests on it follow (R81, R88, R160). In the header
writer: it is the byte at offset 0 (R81, R156). A field as a step of its own is the model's choice (assumption 11,
DEDUCED), and so is what the two aborts leave in K, the tables, the cursors and OBUF (assumption 13, DESIGN CHOICE). -/
def Obligations.CountByteIsConsumedAndProduced : Prop :=
  ∀ (s : State) (k : Byte),
    (s.phase = phHdrr → k ≠ 0 → 1 + 2 * k.toNat ≤ s.ilen →
      exec (.hdrK k) s = .next { s with k := k, iptr := 1 }) ∧
    (s.phase = phHdrr → k = 0 → exec (.hdrK k) s =
      .next { s with k := 0, olen := 0, status := .done (some .invalidSymbolCount), phase := phIdle }) ∧
    (s.phase = phHdrr → k ≠ 0 → s.ilen < 1 + 2 * k.toNat → exec (.hdrK k) s =
      .next { s with k := k, olen := 0, status := .done (some .truncatedHeader), phase := phIdle }) ∧
    (s.phase = phHdrw → ∃ t, exec (.hdrK k) s = .next t ∧
      t = { s with obuf := t.obuf, optr := 1, phase := if s.k = 0 then phPack else phHdrw } ∧
      Memory.lookup t.obuf 0 = some k ∧ ∀ a, a ≠ 0 → Memory.lookup t.obuf a = Memory.lookup s.obuf a)

/-- HDR.PAIR j in the header reader: it becomes entry j, and the last pair ends the phase (R82, R88, R160). In the header
writer: the symbol goes to offset 1 + 2j and the length to 2 + 2j (R82, R156). A field as a step of its own is the model's
choice (assumption 11, DEDUCED). -/
def Obligations.PairIsConsumedAndProduced : Prop :=
  ∀ (s : State) (sym len : Byte) (j : Nat), j < s.k.toNat →
    (s.phase = phHdrr → s.iptr = 1 + 2 * j → ∃ t, exec (.hdrPair sym len) s = .next t ∧
      t = { s with ent := t.ent, iptr := s.iptr + 2, phase := if j + 1 = s.k.toNat then phSort else phHdrr } ∧
      tget t.ent j = ⟨sym, len⟩ ∧ ∀ i, i ≠ j → tget t.ent i = tget s.ent i) ∧
    (s.phase = phHdrw → s.optr = 1 + 2 * j → ∃ t, exec (.hdrPair sym len) s = .next t ∧
      t = { s with obuf := t.obuf, optr := s.optr + 2, phase := if j + 1 = s.k.toNat then phPack else phHdrw } ∧
      Memory.lookup t.obuf (1 + 2 * j) = some sym ∧ Memory.lookup t.obuf (2 + 2 * j) = some len ∧
      ∀ a, a ≠ 1 + 2 * j → a ≠ 2 + 2 * j → Memory.lookup t.obuf a = Memory.lookup s.obuf a)

/-- The model's choice (assumption 11, DEDUCED): a container field changes nothing where no header phase runs. -/
def Obligations.FieldOutsideHeaderPhasesChangesNothing : Prop :=
  ∀ (s : State) (k sym len : Byte), s.phase ≠ phHdrr → s.phase ≠ phHdrw →
    exec (.hdrK k) s = .next s ∧ exec (.hdrPair sym len) s = .next s

/-- HDRR begun with a field, and gone on with by steps of the sequencer of either kind, takes the count byte and then each
pair as a step of its own and ends in the very state HDRR as one step ends in, errors included (R205). That an abort leaves the same internal state both ways is the model's choice
(assumption 13, DESIGN CHOICE). -/
def Obligations.HdrrFieldByFieldIsHdrr : Prop :=
  ∀ (s : State) (es : List Event), s.phase = phHdrr → s.iptr = 0 →
    es.length = (s.readIbuf 0).toNat → (∀ e ∈ es, e = .field ∨ e = .core) →
    Host.Core.run Sys2Proof.core (1 + (s.readIbuf 0).toNat) { s with sched := .field :: es } =
      exec .hdrr { s with sched := [] }

/-- The same of HDRW. -/
def Obligations.HdrwFieldByFieldIsHdrw : Prop :=
  ∀ (s : State) (es : List Event), s.phase = phHdrw → s.optr = 0 →
    es.length = s.k.toNat → (∀ e ∈ es, e = .field ∨ e = .core) →
    Host.Core.run Sys2Proof.core (1 + s.k.toNat) { s with sched := .field :: es } = exec .hdrw { s with sched := [] }

/-! ### PACK and UNPACK -/

/-- PACK from the empty bit packer INIT leaves: the codewords of M', most significant bit first, zero-padded to a byte
boundary, go to the addresses from OPTR on, and the finish sequence follows (R172, R173, R199). That nothing else of the
internal state changes is, once the command has ended, the model's choice (assumption 13, DESIGN CHOICE): R44 leaves it
unspecified. -/
def Obligations.PackWritesCodewords : Prop :=
  ∀ s : State, s.acc = 0 → s.nbits = 0 →
    (∀ b ∈ Contract.extended s.message, (tget s.em b.toNat).valid = true) →
    let payload := Contract.packBytes ((Contract.extended s.message).flatMap
      (fun b => Contract.bitString (tget s.em b.toNat).len.toNat (tget s.em b.toNat).code))
    ∃ t, exec .pack s = .next t ∧
      t = { s with
        status := .done none, olen := s.optr + payload.length, phase := phIdle
        acc := 0, nbits := 0, iptr := s.ilen
        optr := s.optr + payload.length, obuf := t.obuf } ∧
      (∀ i, i < payload.length → Memory.lookup t.obuf (s.optr + i) = payload[i]?) ∧
      ∀ a, (∀ i, i < payload.length → a ≠ (s.optr + i)) →
        Memory.lookup t.obuf a = Memory.lookup s.obuf a

/-- A byte of M' without an EM entry stops PACK with a fault of the model (R174, 93_implementation_defined.md U12). -/
def Obligations.PackLookupMissIsFault : Prop :=
  ∀ s : State, (∃ b ∈ Contract.extended s.message, (tget s.em b.toNat).valid = false) →
    ∃ b ∈ Contract.extended s.message, (tget s.em b.toNat).valid = false ∧
      exec .pack s = .fault (.packLookupMiss b)

/-- UNPACK from the empty candidate INIT leaves, on any code table: it decodes the payload as the unbounded bit-string
reader of R202 does. Where that meets the terminator, the symbols are in OBUF and the finish sequence follows (R182,
R186); where the bits run out, the abort does (R185). IPTR after the stop and CAND once saturated are free values: nothing
is said of them. That the tables and registers the frame does not name stay as they are once the command has ended is the
model's choice (assumption 13, DESIGN CHOICE): R44 and R227 leave them unspecified. -/
def Obligations.UnpackDecodesPayload : Prop :=
  ∀ s : State, s.cand = 0 → s.candlen = 0 →
    ∃ t, exec .unpack s = .next t ∧
      t = { s with
        status := t.status, olen := t.olen, phase := phIdle, cand := t.cand, candlen := t.candlen
        bitpos := t.bitpos, iptr := t.iptr, obuf := t.obuf, optr := t.optr, draws := t.draws } ∧
      match Contract.decodeBits (Contract.codeTable s.rows) (Contract.bitsOf (s.inputFrom s.iptr)) [] with
      | some out =>
        t.status = .done none ∧ t.olen = s.optr + out.length ∧
        (∀ i, i < out.length → Memory.lookup t.obuf (s.optr + i) = out[i]?) ∧
        ∀ a, (∀ i, i < out.length → a ≠ (s.optr + i)) →
          Memory.lookup t.obuf a = Memory.lookup s.obuf a
      | none => t.status = .done (some .unterminatedPayload) ∧ t.olen = 0

/-! ### Encoding -/

/-- Decoding and encoding agree, both ways: what the encoder writes decodes to the instruction, whatever follows it, and
what decodes to an instruction begins with what the encoder writes for it. -/
def Obligations.DecodeEncodeAgree : Prop :=
  (∀ (i : Instr) (rest : List Byte), decode (encode i).1 ((encode i).2 ++ rest) = .ok i) ∧
  ∀ (f : Format) (bs : List Byte) (i : Instr), decode f bs = .ok i →
    f = (encode i).1 ∧ ∃ rest, bs = (encode i).2 ++ rest

/-- Some words of the opcode table, each with the instruction it stands for (R92, R96, R81, R82), and reserved values
rejected by name (R93, R97). -/
def Obligations.TableWordsDecode : Prop :=
  decode .cmd [0x01] = .ok .compress ∧ decode .cmd [0x02] = .ok .decompress ∧
  decode .phase [0x00] = .ok .idle ∧ decode .phase [0x06] = .ok .assign ∧ decode .phase [0x0A] = .ok .unpack ∧
  decode .hdrK [0x03] = .ok (.hdrK 3) ∧ decode .hdrPair [0x61, 0x02] = .ok (.hdrPair 0x61 2) ∧
  decode .cmd [0x03] = .rejected (.reservedCmd 0x03) ∧ decode .phase [0x0B] = .rejected (.reservedPhase 11)

/-! ### Invariants -/

/-- The invariants hold after reset, for every LEN_W; the machine starts at the default, 32 (R8). -/
def Obligations.InvHoldsAtReset : Prop :=
  State.reset.lenW = 32 ∧ State.reset = State.resetAt 32 ∧
  ∀ w, 0 < w → Inv (State.resetAt w) ∧ Covered (State.resetAt w) ∧ Fits (State.resetAt w)

/-- Every step keeps the invariant, whatever the host does. -/
def Obligations.StepKeepsInv : Prop := ∀ s t : State, Inv s → step s = .next t → Inv t

/-- No step stops: where the tables are as each phase expects them, there is a next state, and its tables are so again
(R97, R174, R221). -/
def Obligations.EveryStepIsSafe : Prop :=
  ∀ s : State, Inv s → Covered s → ∃ t, step s = .next t ∧ Covered t

/-- Nothing overflows, for any LEN_W (R8): every step keeps each register whose width LEN_W sets within that width, and
the buffers within their address spaces, whatever the host does; and no step changes LEN_W. -/
def Obligations.StepKeepsWidths : Prop :=
  ∀ s t : State, step s = .next t → t.lenW = s.lenW ∧ (Inv s → Covered s → Fits s → Fits t)

/-- A running command reaches its end, `finish` or an abort (R206): in at most eight steps of the sequencer, and where a
header was begun field by field, after its at most 255 pairs, in 258. -/
def Obligations.RunningCommandTerminates : Prop :=
  ∀ s : State, Inv s → Covered s → s.sched = [] →
    ∃ t, Host.Core.run Sys2Proof.core (if s.headerBegun then 258 else 8) s = .next t ∧ ¬ t.busy ∧ t.phase = phIdle

/-- OBUF is written forward only: while a command runs OPTR never falls after INIT, a step writes at addresses from OPTR up
to the OPTR it leaves alone, and INIT and a block that is not running write nothing. So within one command every OBUF
address is written at most once, in ascending order (R75, R27, R39), whatever the granularity of the steps. What it says of
the step that ends a command is the model's choice (assumption 13, DESIGN CHOICE): R44 leaves OPTR unspecified then, and
R227 every OBUF byte after an abort. -/
def Obligations.OutputIsWrittenForward : Prop :=
  ∀ s t : State, Inv s → step s = .next t → s.sched.head? ≠ some .reset →
    (s.busy → s.phase ≠ phInit → s.optr ≤ t.optr) ∧
    ∀ a, (a < s.optr ∨ t.optr ≤ a ∨ s.phase = phInit ∨ ¬ s.busy) → Memory.lookup t.obuf a = Memory.lookup s.obuf a

/-- No IBUF address at or beyond ILEN is read by an instruction (R75, R26, R76): with other bytes there it gives the same
next state. That this takes in the internal registers and tables once a command has ended, and IPTR after the terminator,
is the model's choice (assumptions 13 and 7, DESIGN CHOICE): R44, R227 and R186 leave them unspecified, and IPTR there is
one free value for both. The bytes of a container field are read before its instruction runs; `Inv.iptr_hdrr`, which
`StepKeepsInv` is about, keeps them below ILEN. -/
def Obligations.BytesBeyondIlenDoNotMatter : Prop :=
  ∀ (i : Instr) (s t : State) (m : Memory), (∀ a, a < s.ilen → { s with ibuf := m }.readIbuf a = s.readIbuf a) →
    exec i s = .next t → exec i { s with ibuf := m } = .next { t with ibuf := m }

/-! ### Whole commands -/

/-- A COMPRESS command, from any state in which none runs, ends with the outcome R201 gives for the message. -/
def Obligations.CompressMeetsContract : Prop :=
  ∀ s : State, ¬ s.busy →
    ∃ t : State, Host.Core.run Sys2Proof.core 9 { s with sched := [.writeCmd 0x01] } = .next t ∧
      t.hasOutcome (Contract.compress s.message) ∧ t.phase = phIdle ∧ t.ibuf = s.ibuf ∧ t.ilen = s.ilen

/-- A DECOMPRESS command, from any state in which none runs, ends with the outcome R202 gives for the container. -/
def Obligations.DecompressMeetsContract : Prop :=
  ∀ s : State, ¬ s.busy →
    ∃ t : State, Host.Core.run Sys2Proof.core 6 { s with sched := [.writeCmd 0x02] } = .next t ∧
      t.hasOutcome (Contract.decompress s.message) ∧ t.phase = phIdle ∧ t.ibuf = s.ibuf ∧ t.ilen = s.ilen

/-- R203: COMPRESS of a message without a byte 0 succeeds, and DECOMPRESS of its output gives the message without its CR
bytes; COMPRESS of a message with a byte 0 ends with ReservedByteInInput. -/
def Obligations.RoundTrip : Prop :=
  (∀ s : State, ¬ s.busy → Config.term ∉ s.message →
    ∃ t : State, Host.Core.run Sys2Proof.core 9 { s with sched := [.writeCmd 0x01] } = .next t ∧
      t.status = .done none ∧
      ∀ u : State, ¬ u.busy → u.ilen = t.olen →
        (∀ a, a < t.olen → Memory.lookup t.obuf a = some (u.readIbuf a)) →
        ∃ v : State, Host.Core.run Sys2Proof.core 6 { u with sched := [.writeCmd 0x02] } = .next v ∧
          v.status = .done none ∧ v.result = (Contract.filterCr s.message).map some) ∧
  ∀ s : State, ¬ s.busy → Config.term ∈ s.message →
    ∃ t : State, Host.Core.run Sys2Proof.core 9 { s with sched := [.writeCmd 0x01] } = .next t ∧
      t.status = .done (some .reservedByteInInput) ∧ t.olen = 0

/-- A command's result depends on its input bytes alone: two states with the same input, in which no command runs, give the
same STATUS, OLEN and result, whatever their tables, registers and output buffers hold (R207, R44). -/
def Obligations.ResultDependsOnInputAlone : Prop :=
  ∀ (s u : State) (v : Byte), ¬ s.busy → ¬ u.busy → s.message = u.message → (v = 0x01 ∨ v = 0x02) →
    ∃ t w : State, Host.Core.run Sys2Proof.core 9 { s with sched := [.writeCmd v] } = .next t ∧
      Host.Core.run Sys2Proof.core 9 { u with sched := [.writeCmd v] } = .next w ∧
      t.status = w.status ∧ t.olen = w.olen ∧ t.result = w.result
end

