-- ==== Sys2Proof/Laws/Config.lean ====
section
/-!
SUPPORT. Laws/Config.lean: the widths R7 and R8 derive, and the default of the parameter `LEN_W`.
-/

namespace Sys2Proof

theorem lenW_default : Config.lenW = 32 := rfl
theorem cntW_eq (lenW : Nat) : Config.cntW lenW = lenW + 1 := rfl
theorem olenW_eq (lenW : Nat) : Config.olenW lenW = lenW + 8 := rfl
theorem code_width : Code = BitVec Config.codeW := rfl
theorem nodeMax_eq : Config.nodeMax = 2 * Config.kMax - 1 := rfl

/-- ILEN_MAX is the largest number of LEN_W bits (R8). -/
theorem le_ilenMax_iff (lenW n : Nat) : n ≤ Config.ilenMax lenW ↔ n < 2 ^ lenW := by
  have := Nat.two_pow_pos lenW
  unfold Config.ilenMax
  omega

end Sys2Proof
end

