-- ==== Sys2Proof/Laws/Memory.lean ====
section
/-!
SUPPORT. Laws/Memory.lean: what the memory and table operations do: read after write, and that a write keeps the
canonical form and the address bound.
-/

namespace Sys2Proof.Machine

open Sys2Proof

/-! ### Memory -/

@[simp] theorem Memory.lookup_nil (a : Nat) : Memory.lookup [] a = none := rfl

theorem Memory.lookup_cons (c : Host.Cell) (m : Memory) (a : Nat) :
    Memory.lookup (c :: m) a = if c.1 = a then some c.2 else Memory.lookup m a := rfl

/-- Read after write, at the written address and at every other; it needs no canonical form. -/
theorem Memory.lookup_write (m : Memory) (a : Nat) (v : Byte) (b : Nat) :
    Memory.lookup (Memory.write m a v) b = if a = b then some v else Memory.lookup m b := by
  induction m with
  | nil => simp [Memory.write, Memory.lookup]
  | cons c m ih =>
    unfold Memory.write
    split
    · simp [Memory.lookup]
    · split
      · subst_vars; simp only [Memory.lookup]; split <;> rfl
      · simp only [Memory.lookup, ih]
        split
        · split
          · omega
          · rfl
        · rfl

@[simp] theorem Memory.lookup_write_same (m : Memory) (a : Nat) (v : Byte) :
    Memory.lookup (Memory.write m a v) a = some v := by simp [Memory.lookup_write]

theorem Memory.lookup_write_ne (m : Memory) {a b : Nat} (v : Byte) (h : a ≠ b) :
    Memory.lookup (Memory.write m a v) b = Memory.lookup m b := by simp [Memory.lookup_write, h]

/-- The cells after a write are the written one and old ones. -/
theorem Memory.mem_write {m : Memory} {a : Nat} {v : Byte} {c : Host.Cell} (h : c ∈ Memory.write m a v) :
    c = (a, v) ∨ c ∈ m := by
  induction m with
  | nil => simpa [Memory.write] using h
  | cons d m ih =>
    unfold Memory.write at h
    split at h
    · simpa using h
    · split at h
      · rcases List.mem_cons.1 h with h | h
        · exact .inl h
        · exact .inr (List.mem_cons_of_mem _ h)
      · rcases List.mem_cons.1 h with h | h
        · exact .inr (h ▸ List.mem_cons_self)
        · exact (ih h).imp_right (List.mem_cons_of_mem _)

/-- A write keeps the canonical form. -/
theorem Memory.write_wf {m : Memory} (a : Nat) (v : Byte) (h : Memory.wf m) : Memory.wf (Memory.write m a v) := by
  induction m with
  | nil => simp [Memory.write, Memory.wf]
  | cons c m ih =>
    obtain ⟨hc, hm⟩ := List.pairwise_cons.1 h
    unfold Memory.write
    split
    · refine List.pairwise_cons.2 ⟨fun d hd => ?_, h⟩
      rcases List.mem_cons.1 hd with rfl | hd
      · assumption
      · exact Nat.lt_trans ‹_› (hc d hd)
    · split
      · subst_vars
        exact List.pairwise_cons.2 ⟨hc, hm⟩
      · refine List.pairwise_cons.2 ⟨fun d hd => ?_, ih hm⟩
        rcases Memory.mem_write hd with rfl | hd
        · show c.1 < a
          omega
        · exact hc d hd

/-- A write inside an address bound keeps it. -/
theorem Memory.write_bounded {m : Memory} {a n : Nat} {v : Byte} (h : ∀ c ∈ m, c.1 < n) (ha : a < n) :
    ∀ c ∈ Memory.write m a v, c.1 < n := by
  intro c hc
  rcases Memory.mem_write hc with rfl | hc
  · exact ha
  · exact h c hc

/-- The reset memories are in canonical form. -/
theorem reset_memories_wf : Memory.wf State.reset.ibuf ∧ Memory.wf State.reset.obuf :=
  ⟨List.Pairwise.nil, List.Pairwise.nil⟩

/-! ### Tables -/

variable {α : Type} [Inhabited α] {n : Nat}

theorem tget_eq_getElem (t : Vector α n) {i : Nat} (h : i < n) : tget t i = t[i] := by
  simp [tget, h]

theorem tget_tset (t : Vector α n) (i : Nat) (v : α) (j : Nat) :
    tget (tset t i v) j = if i = j ∧ i < n then v else tget t j := by
  unfold tget tset
  rw [Vector.getElem?_setIfInBounds]
  by_cases h : i = j
  · subst h
    by_cases hn : i < n <;> simp [hn]
  · simp [h]

@[simp] theorem tget_tset_same (t : Vector α n) {i : Nat} (v : α) (h : i < n) : tget (tset t i v) i = v := by
  simp [tget_tset, h]

theorem tget_tset_ne (t : Vector α n) {i j : Nat} (v : α) (h : i ≠ j) : tget (tset t i v) j = tget t j := by
  simp [tget_tset, h]

/-- Writing past the table writes nothing. -/
theorem tset_of_le {β : Type} {m : Nat} (t : Vector β m) {i : Nat} (v : β) (h : m ≤ i) : tset t i v = t := by
  unfold tset
  simp [Vector.setIfInBounds_eq_of_size_le h]

@[simp] theorem tget_replicate {v : α} {i : Nat} (h : i < n) : tget (Vector.replicate n v) i = v := by
  simp [tget, h]

/-- Two tables with the same entries are one. -/
theorem table_ext {t u : Vector α n} (h : ∀ i, i < n → tget t i = tget u i) : t = u := by
  apply Vector.ext
  intro i hi
  simpa [tget_eq_getElem, hi] using h i hi

/-! ### The input bytes -/

@[simp] theorem State.length_inputFrom (s : State) (a : Nat) : (s.inputFrom a).length = s.ilen - a := by
  simp [State.inputFrom]

theorem State.getElem_inputFrom (s : State) (a i : Nat) (h : i < (s.inputFrom a).length) :
    (s.inputFrom a)[i] = s.readIbuf (a + i) := by
  simp [State.inputFrom]

@[simp] theorem State.length_entries (s : State) : s.entries.length = s.k.toNat := by simp [State.entries]

@[simp] theorem State.length_rows (s : State) : s.rows.length = s.k.toNat := by simp [State.rows]

end Sys2Proof.Machine
end

