-- ==== Sys2Proof/Laws/PerInstr.lean ====
section
/-!
SUPPORT. Laws/PerInstr.lean: statements about each instruction as syntax, one lemma a constructor.
-/

namespace Sys2Proof.Laws.EncodedSize

open Sys2Proof

/-- The encoder gives an instruction as many bytes as the opcode table gives its row. -/
def Statement (i : Instr) : Prop := (encode i).2.length = (encode i).1.size

theorem compress : Statement .compress := rfl
theorem decompress : Statement .decompress := rfl
theorem idle : Statement .idle := rfl
theorem init : Statement .init := rfl
theorem freq : Statement .freq := rfl
theorem build : Statement .build := rfl
theorem depth : Statement .depth := rfl
theorem sort : Statement .sort := rfl
theorem assign : Statement .assign := rfl
theorem hdrw : Statement .hdrw := rfl
theorem pack : Statement .pack := rfl
theorem hdrr : Statement .hdrr := rfl
theorem unpack : Statement .unpack := rfl
theorem hdrK (k : Byte) : Statement (.hdrK k) := rfl
theorem hdrPair (sym len : Byte) : Statement (.hdrPair sym len) := rfl

end Sys2Proof.Laws.EncodedSize
end

