-- ==== Sys2Proof/Laws/State.lean ====
section
/-!
SUPPORT. Laws/State.lean: one lemma for each field after each named update of State, so that no proof unfolds one.
-/

namespace Sys2Proof.Machine

open Sys2Proof

/-! ### resetAt -/

@[simp] theorem State.lenW_resetAt (w : Nat) : (State.resetAt w).lenW = w := rfl
@[simp] theorem State.status_resetAt (w : Nat) : (State.resetAt w).status = .idle := rfl
@[simp] theorem State.ilen_resetAt (w : Nat) : (State.resetAt w).ilen = 0 := rfl
@[simp] theorem State.olen_resetAt (w : Nat) : (State.resetAt w).olen = 0 := rfl
@[simp] theorem State.ibuf_resetAt (w : Nat) : (State.resetAt w).ibuf = [] := rfl
@[simp] theorem State.obuf_resetAt (w : Nat) : (State.resetAt w).obuf = [] := rfl
@[simp] theorem State.phase_resetAt (w : Nat) : (State.resetAt w).phase = 0 := rfl
@[simp] theorem State.dir_resetAt (w : Nat) : (State.resetAt w).dir = .compress := rfl
@[simp] theorem State.iptr_resetAt (w : Nat) : (State.resetAt w).iptr = 0 := rfl
@[simp] theorem State.optr_resetAt (w : Nat) : (State.resetAt w).optr = 0 := rfl
@[simp] theorem State.k_resetAt (w : Nat) : (State.resetAt w).k = 0 := rfl
@[simp] theorem State.nn_resetAt (w : Nat) : (State.resetAt w).nn = 0 := rfl
@[simp] theorem State.root_resetAt (w : Nat) : (State.resetAt w).root = 0 := rfl
@[simp] theorem State.code_resetAt (w : Nat) : (State.resetAt w).code = 0 := rfl
@[simp] theorem State.prevlen_resetAt (w : Nat) : (State.resetAt w).prevlen = 0 := rfl
@[simp] theorem State.acc_resetAt (w : Nat) : (State.resetAt w).acc = 0 := rfl
@[simp] theorem State.nbits_resetAt (w : Nat) : (State.resetAt w).nbits = 0 := rfl
@[simp] theorem State.cand_resetAt (w : Nat) : (State.resetAt w).cand = 0 := rfl
@[simp] theorem State.candlen_resetAt (w : Nat) : (State.resetAt w).candlen = 0 := rfl
@[simp] theorem State.bitpos_resetAt (w : Nat) : (State.resetAt w).bitpos = 0 := rfl
@[simp] theorem State.freq_resetAt (w : Nat) : (State.resetAt w).freq = .replicate 256 0 := rfl
@[simp] theorem State.ent_resetAt (w : Nat) : (State.resetAt w).ent = .replicate 255 ⟨0, 0⟩ := rfl
@[simp] theorem State.node_resetAt (w : Nat) : (State.resetAt w).node = .replicate 509 ⟨false, 0, 0, 0, 0, 0, 0⟩ := rfl
@[simp] theorem State.pq_resetAt (w : Nat) : (State.resetAt w).pq = [] := rfl
@[simp] theorem State.ct_resetAt (w : Nat) : (State.resetAt w).ct = .replicate 255 ⟨0, 0, 0⟩ := rfl
@[simp] theorem State.em_resetAt (w : Nat) : (State.resetAt w).em = .replicate 256 ⟨false, 0, 0⟩ := rfl
@[simp] theorem State.sched_resetAt (w : Nat) : (State.resetAt w).sched = [] := rfl
@[simp] theorem State.port_resetAt (w : Nat) : (State.resetAt w).port = 0 := rfl
@[simp] theorem State.draws_resetAt (w : Nat) : (State.resetAt w).draws = 0 := rfl
@[simp] theorem State.epoch_resetAt (w : Nat) : (State.resetAt w).epoch = 0 := rfl

/-! ### accept -/

@[simp] theorem State.lenW_accept (d : Dir) (s : State) : (s.accept d).lenW = s.lenW := rfl
@[simp] theorem State.status_accept (d : Dir) (s : State) : (s.accept d).status = .running := rfl
@[simp] theorem State.ilen_accept (d : Dir) (s : State) : (s.accept d).ilen = s.ilen := rfl
@[simp] theorem State.olen_accept (d : Dir) (s : State) : (s.accept d).olen = 0 := rfl
@[simp] theorem State.ibuf_accept (d : Dir) (s : State) : (s.accept d).ibuf = s.ibuf := rfl
@[simp] theorem State.obuf_accept (d : Dir) (s : State) : (s.accept d).obuf = s.obuf := rfl
@[simp] theorem State.phase_accept (d : Dir) (s : State) : (s.accept d).phase = phInit := rfl
@[simp] theorem State.dir_accept (d : Dir) (s : State) : (s.accept d).dir = d := rfl
@[simp] theorem State.iptr_accept (d : Dir) (s : State) : (s.accept d).iptr = s.iptr := rfl
@[simp] theorem State.optr_accept (d : Dir) (s : State) : (s.accept d).optr = s.optr := rfl
@[simp] theorem State.k_accept (d : Dir) (s : State) : (s.accept d).k = s.k := rfl
@[simp] theorem State.nn_accept (d : Dir) (s : State) : (s.accept d).nn = s.nn := rfl
@[simp] theorem State.root_accept (d : Dir) (s : State) : (s.accept d).root = s.root := rfl
@[simp] theorem State.code_accept (d : Dir) (s : State) : (s.accept d).code = s.code := rfl
@[simp] theorem State.prevlen_accept (d : Dir) (s : State) : (s.accept d).prevlen = s.prevlen := rfl
@[simp] theorem State.acc_accept (d : Dir) (s : State) : (s.accept d).acc = s.acc := rfl
@[simp] theorem State.nbits_accept (d : Dir) (s : State) : (s.accept d).nbits = s.nbits := rfl
@[simp] theorem State.cand_accept (d : Dir) (s : State) : (s.accept d).cand = s.cand := rfl
@[simp] theorem State.candlen_accept (d : Dir) (s : State) : (s.accept d).candlen = s.candlen := rfl
@[simp] theorem State.bitpos_accept (d : Dir) (s : State) : (s.accept d).bitpos = s.bitpos := rfl
@[simp] theorem State.freq_accept (d : Dir) (s : State) : (s.accept d).freq = s.freq := rfl
@[simp] theorem State.ent_accept (d : Dir) (s : State) : (s.accept d).ent = s.ent := rfl
@[simp] theorem State.node_accept (d : Dir) (s : State) : (s.accept d).node = s.node := rfl
@[simp] theorem State.pq_accept (d : Dir) (s : State) : (s.accept d).pq = s.pq := rfl
@[simp] theorem State.ct_accept (d : Dir) (s : State) : (s.accept d).ct = s.ct := rfl
@[simp] theorem State.em_accept (d : Dir) (s : State) : (s.accept d).em = s.em := rfl
@[simp] theorem State.sched_accept (d : Dir) (s : State) : (s.accept d).sched = s.sched := rfl
@[simp] theorem State.port_accept (d : Dir) (s : State) : (s.accept d).port = s.port := rfl
@[simp] theorem State.draws_accept (d : Dir) (s : State) : (s.accept d).draws = s.draws := rfl
@[simp] theorem State.epoch_accept (d : Dir) (s : State) : (s.accept d).epoch = s.epoch := rfl

/-! ### finish -/

@[simp] theorem State.lenW_finish (s : State) : (s.finish).lenW = s.lenW := rfl
@[simp] theorem State.status_finish (s : State) : (s.finish).status = .done none := rfl
@[simp] theorem State.ilen_finish (s : State) : (s.finish).ilen = s.ilen := rfl
@[simp] theorem State.olen_finish (s : State) : (s.finish).olen = s.optr := rfl
@[simp] theorem State.ibuf_finish (s : State) : (s.finish).ibuf = s.ibuf := rfl
@[simp] theorem State.obuf_finish (s : State) : (s.finish).obuf = s.obuf := rfl
@[simp] theorem State.phase_finish (s : State) : (s.finish).phase = phIdle := rfl
@[simp] theorem State.dir_finish (s : State) : (s.finish).dir = s.dir := rfl
@[simp] theorem State.iptr_finish (s : State) : (s.finish).iptr = s.iptr := rfl
@[simp] theorem State.optr_finish (s : State) : (s.finish).optr = s.optr := rfl
@[simp] theorem State.k_finish (s : State) : (s.finish).k = s.k := rfl
@[simp] theorem State.nn_finish (s : State) : (s.finish).nn = s.nn := rfl
@[simp] theorem State.root_finish (s : State) : (s.finish).root = s.root := rfl
@[simp] theorem State.code_finish (s : State) : (s.finish).code = s.code := rfl
@[simp] theorem State.prevlen_finish (s : State) : (s.finish).prevlen = s.prevlen := rfl
@[simp] theorem State.acc_finish (s : State) : (s.finish).acc = s.acc := rfl
@[simp] theorem State.nbits_finish (s : State) : (s.finish).nbits = s.nbits := rfl
@[simp] theorem State.cand_finish (s : State) : (s.finish).cand = s.cand := rfl
@[simp] theorem State.candlen_finish (s : State) : (s.finish).candlen = s.candlen := rfl
@[simp] theorem State.bitpos_finish (s : State) : (s.finish).bitpos = s.bitpos := rfl
@[simp] theorem State.freq_finish (s : State) : (s.finish).freq = s.freq := rfl
@[simp] theorem State.ent_finish (s : State) : (s.finish).ent = s.ent := rfl
@[simp] theorem State.node_finish (s : State) : (s.finish).node = s.node := rfl
@[simp] theorem State.pq_finish (s : State) : (s.finish).pq = s.pq := rfl
@[simp] theorem State.ct_finish (s : State) : (s.finish).ct = s.ct := rfl
@[simp] theorem State.em_finish (s : State) : (s.finish).em = s.em := rfl
@[simp] theorem State.sched_finish (s : State) : (s.finish).sched = s.sched := rfl
@[simp] theorem State.port_finish (s : State) : (s.finish).port = s.port := rfl
@[simp] theorem State.draws_finish (s : State) : (s.finish).draws = s.draws := rfl
@[simp] theorem State.epoch_finish (s : State) : (s.finish).epoch = s.epoch := rfl

/-! ### raise -/

@[simp] theorem State.lenW_raise (e : ErrorKind) (s : State) : (s.raise e).lenW = s.lenW := rfl
@[simp] theorem State.status_raise (e : ErrorKind) (s : State) : (s.raise e).status = .done (some e) := rfl
@[simp] theorem State.ilen_raise (e : ErrorKind) (s : State) : (s.raise e).ilen = s.ilen := rfl
@[simp] theorem State.olen_raise (e : ErrorKind) (s : State) : (s.raise e).olen = 0 := rfl
@[simp] theorem State.ibuf_raise (e : ErrorKind) (s : State) : (s.raise e).ibuf = s.ibuf := rfl
@[simp] theorem State.obuf_raise (e : ErrorKind) (s : State) : (s.raise e).obuf = s.obuf := rfl
@[simp] theorem State.phase_raise (e : ErrorKind) (s : State) : (s.raise e).phase = phIdle := rfl
@[simp] theorem State.dir_raise (e : ErrorKind) (s : State) : (s.raise e).dir = s.dir := rfl
@[simp] theorem State.iptr_raise (e : ErrorKind) (s : State) : (s.raise e).iptr = s.iptr := rfl
@[simp] theorem State.optr_raise (e : ErrorKind) (s : State) : (s.raise e).optr = s.optr := rfl
@[simp] theorem State.k_raise (e : ErrorKind) (s : State) : (s.raise e).k = s.k := rfl
@[simp] theorem State.nn_raise (e : ErrorKind) (s : State) : (s.raise e).nn = s.nn := rfl
@[simp] theorem State.root_raise (e : ErrorKind) (s : State) : (s.raise e).root = s.root := rfl
@[simp] theorem State.code_raise (e : ErrorKind) (s : State) : (s.raise e).code = s.code := rfl
@[simp] theorem State.prevlen_raise (e : ErrorKind) (s : State) : (s.raise e).prevlen = s.prevlen := rfl
@[simp] theorem State.acc_raise (e : ErrorKind) (s : State) : (s.raise e).acc = s.acc := rfl
@[simp] theorem State.nbits_raise (e : ErrorKind) (s : State) : (s.raise e).nbits = s.nbits := rfl
@[simp] theorem State.cand_raise (e : ErrorKind) (s : State) : (s.raise e).cand = s.cand := rfl
@[simp] theorem State.candlen_raise (e : ErrorKind) (s : State) : (s.raise e).candlen = s.candlen := rfl
@[simp] theorem State.bitpos_raise (e : ErrorKind) (s : State) : (s.raise e).bitpos = s.bitpos := rfl
@[simp] theorem State.freq_raise (e : ErrorKind) (s : State) : (s.raise e).freq = s.freq := rfl
@[simp] theorem State.ent_raise (e : ErrorKind) (s : State) : (s.raise e).ent = s.ent := rfl
@[simp] theorem State.node_raise (e : ErrorKind) (s : State) : (s.raise e).node = s.node := rfl
@[simp] theorem State.pq_raise (e : ErrorKind) (s : State) : (s.raise e).pq = s.pq := rfl
@[simp] theorem State.ct_raise (e : ErrorKind) (s : State) : (s.raise e).ct = s.ct := rfl
@[simp] theorem State.em_raise (e : ErrorKind) (s : State) : (s.raise e).em = s.em := rfl
@[simp] theorem State.sched_raise (e : ErrorKind) (s : State) : (s.raise e).sched = s.sched := rfl
@[simp] theorem State.port_raise (e : ErrorKind) (s : State) : (s.raise e).port = s.port := rfl
@[simp] theorem State.draws_raise (e : ErrorKind) (s : State) : (s.raise e).draws = s.draws := rfl
@[simp] theorem State.epoch_raise (e : ErrorKind) (s : State) : (s.raise e).epoch = s.epoch := rfl

/-! ### applyReset -/

@[simp] theorem State.lenW_applyReset (s : State) : (s.applyReset).lenW = s.lenW := rfl
@[simp] theorem State.status_applyReset (s : State) : (s.applyReset).status = (State.resetAt s.lenW).status := rfl
@[simp] theorem State.ilen_applyReset (s : State) : (s.applyReset).ilen = (State.resetAt s.lenW).ilen := rfl
@[simp] theorem State.olen_applyReset (s : State) : (s.applyReset).olen = (State.resetAt s.lenW).olen := rfl
@[simp] theorem State.ibuf_applyReset (s : State) : (s.applyReset).ibuf = (State.resetAt s.lenW).ibuf := rfl
@[simp] theorem State.obuf_applyReset (s : State) : (s.applyReset).obuf = (State.resetAt s.lenW).obuf := rfl
@[simp] theorem State.phase_applyReset (s : State) : (s.applyReset).phase = (State.resetAt s.lenW).phase := rfl
@[simp] theorem State.dir_applyReset (s : State) : (s.applyReset).dir = (State.resetAt s.lenW).dir := rfl
@[simp] theorem State.iptr_applyReset (s : State) : (s.applyReset).iptr = (State.resetAt s.lenW).iptr := rfl
@[simp] theorem State.optr_applyReset (s : State) : (s.applyReset).optr = (State.resetAt s.lenW).optr := rfl
@[simp] theorem State.k_applyReset (s : State) : (s.applyReset).k = (State.resetAt s.lenW).k := rfl
@[simp] theorem State.nn_applyReset (s : State) : (s.applyReset).nn = (State.resetAt s.lenW).nn := rfl
@[simp] theorem State.root_applyReset (s : State) : (s.applyReset).root = (State.resetAt s.lenW).root := rfl
@[simp] theorem State.code_applyReset (s : State) : (s.applyReset).code = (State.resetAt s.lenW).code := rfl
@[simp] theorem State.prevlen_applyReset (s : State) : (s.applyReset).prevlen = (State.resetAt s.lenW).prevlen := rfl
@[simp] theorem State.acc_applyReset (s : State) : (s.applyReset).acc = (State.resetAt s.lenW).acc := rfl
@[simp] theorem State.nbits_applyReset (s : State) : (s.applyReset).nbits = (State.resetAt s.lenW).nbits := rfl
@[simp] theorem State.cand_applyReset (s : State) : (s.applyReset).cand = (State.resetAt s.lenW).cand := rfl
@[simp] theorem State.candlen_applyReset (s : State) : (s.applyReset).candlen = (State.resetAt s.lenW).candlen := rfl
@[simp] theorem State.bitpos_applyReset (s : State) : (s.applyReset).bitpos = (State.resetAt s.lenW).bitpos := rfl
@[simp] theorem State.freq_applyReset (s : State) : (s.applyReset).freq = (State.resetAt s.lenW).freq := rfl
@[simp] theorem State.ent_applyReset (s : State) : (s.applyReset).ent = (State.resetAt s.lenW).ent := rfl
@[simp] theorem State.node_applyReset (s : State) : (s.applyReset).node = (State.resetAt s.lenW).node := rfl
@[simp] theorem State.pq_applyReset (s : State) : (s.applyReset).pq = (State.resetAt s.lenW).pq := rfl
@[simp] theorem State.ct_applyReset (s : State) : (s.applyReset).ct = (State.resetAt s.lenW).ct := rfl
@[simp] theorem State.em_applyReset (s : State) : (s.applyReset).em = (State.resetAt s.lenW).em := rfl
@[simp] theorem State.sched_applyReset (s : State) : (s.applyReset).sched = s.sched := rfl
@[simp] theorem State.port_applyReset (s : State) : (s.applyReset).port = s.port := rfl
@[simp] theorem State.draws_applyReset (s : State) : (s.applyReset).draws = s.draws := rfl
@[simp] theorem State.epoch_applyReset (s : State) : (s.applyReset).epoch = s.epoch + 1 := rfl

/-! ### answer -/

@[simp] theorem State.lenW_answer (v : Nat) (s : State) : (s.answer v).lenW = s.lenW := rfl
@[simp] theorem State.status_answer (v : Nat) (s : State) : (s.answer v).status = s.status := rfl
@[simp] theorem State.ilen_answer (v : Nat) (s : State) : (s.answer v).ilen = s.ilen := rfl
@[simp] theorem State.olen_answer (v : Nat) (s : State) : (s.answer v).olen = s.olen := rfl
@[simp] theorem State.ibuf_answer (v : Nat) (s : State) : (s.answer v).ibuf = s.ibuf := rfl
@[simp] theorem State.obuf_answer (v : Nat) (s : State) : (s.answer v).obuf = s.obuf := rfl
@[simp] theorem State.phase_answer (v : Nat) (s : State) : (s.answer v).phase = s.phase := rfl
@[simp] theorem State.dir_answer (v : Nat) (s : State) : (s.answer v).dir = s.dir := rfl
@[simp] theorem State.iptr_answer (v : Nat) (s : State) : (s.answer v).iptr = s.iptr := rfl
@[simp] theorem State.optr_answer (v : Nat) (s : State) : (s.answer v).optr = s.optr := rfl
@[simp] theorem State.k_answer (v : Nat) (s : State) : (s.answer v).k = s.k := rfl
@[simp] theorem State.nn_answer (v : Nat) (s : State) : (s.answer v).nn = s.nn := rfl
@[simp] theorem State.root_answer (v : Nat) (s : State) : (s.answer v).root = s.root := rfl
@[simp] theorem State.code_answer (v : Nat) (s : State) : (s.answer v).code = s.code := rfl
@[simp] theorem State.prevlen_answer (v : Nat) (s : State) : (s.answer v).prevlen = s.prevlen := rfl
@[simp] theorem State.acc_answer (v : Nat) (s : State) : (s.answer v).acc = s.acc := rfl
@[simp] theorem State.nbits_answer (v : Nat) (s : State) : (s.answer v).nbits = s.nbits := rfl
@[simp] theorem State.cand_answer (v : Nat) (s : State) : (s.answer v).cand = s.cand := rfl
@[simp] theorem State.candlen_answer (v : Nat) (s : State) : (s.answer v).candlen = s.candlen := rfl
@[simp] theorem State.bitpos_answer (v : Nat) (s : State) : (s.answer v).bitpos = s.bitpos := rfl
@[simp] theorem State.freq_answer (v : Nat) (s : State) : (s.answer v).freq = s.freq := rfl
@[simp] theorem State.ent_answer (v : Nat) (s : State) : (s.answer v).ent = s.ent := rfl
@[simp] theorem State.node_answer (v : Nat) (s : State) : (s.answer v).node = s.node := rfl
@[simp] theorem State.pq_answer (v : Nat) (s : State) : (s.answer v).pq = s.pq := rfl
@[simp] theorem State.ct_answer (v : Nat) (s : State) : (s.answer v).ct = s.ct := rfl
@[simp] theorem State.em_answer (v : Nat) (s : State) : (s.answer v).em = s.em := rfl
@[simp] theorem State.sched_answer (v : Nat) (s : State) : (s.answer v).sched = s.sched := rfl
@[simp] theorem State.port_answer (v : Nat) (s : State) : (s.answer v).port = v := rfl
@[simp] theorem State.draws_answer (v : Nat) (s : State) : (s.answer v).draws = s.draws := rfl
@[simp] theorem State.epoch_answer (v : Nat) (s : State) : (s.answer v).epoch = s.epoch := rfl

/-! ### answerFree -/

@[simp] theorem State.lenW_answerFree (s : State) (w : Nat) : (s.answerFree w).lenW = s.lenW := rfl
@[simp] theorem State.status_answerFree (s : State) (w : Nat) : (s.answerFree w).status = s.status := rfl
@[simp] theorem State.ilen_answerFree (s : State) (w : Nat) : (s.answerFree w).ilen = s.ilen := rfl
@[simp] theorem State.olen_answerFree (s : State) (w : Nat) : (s.answerFree w).olen = s.olen := rfl
@[simp] theorem State.ibuf_answerFree (s : State) (w : Nat) : (s.answerFree w).ibuf = s.ibuf := rfl
@[simp] theorem State.obuf_answerFree (s : State) (w : Nat) : (s.answerFree w).obuf = s.obuf := rfl
@[simp] theorem State.phase_answerFree (s : State) (w : Nat) : (s.answerFree w).phase = s.phase := rfl
@[simp] theorem State.dir_answerFree (s : State) (w : Nat) : (s.answerFree w).dir = s.dir := rfl
@[simp] theorem State.iptr_answerFree (s : State) (w : Nat) : (s.answerFree w).iptr = s.iptr := rfl
@[simp] theorem State.optr_answerFree (s : State) (w : Nat) : (s.answerFree w).optr = s.optr := rfl
@[simp] theorem State.k_answerFree (s : State) (w : Nat) : (s.answerFree w).k = s.k := rfl
@[simp] theorem State.nn_answerFree (s : State) (w : Nat) : (s.answerFree w).nn = s.nn := rfl
@[simp] theorem State.root_answerFree (s : State) (w : Nat) : (s.answerFree w).root = s.root := rfl
@[simp] theorem State.code_answerFree (s : State) (w : Nat) : (s.answerFree w).code = s.code := rfl
@[simp] theorem State.prevlen_answerFree (s : State) (w : Nat) : (s.answerFree w).prevlen = s.prevlen := rfl
@[simp] theorem State.acc_answerFree (s : State) (w : Nat) : (s.answerFree w).acc = s.acc := rfl
@[simp] theorem State.nbits_answerFree (s : State) (w : Nat) : (s.answerFree w).nbits = s.nbits := rfl
@[simp] theorem State.cand_answerFree (s : State) (w : Nat) : (s.answerFree w).cand = s.cand := rfl
@[simp] theorem State.candlen_answerFree (s : State) (w : Nat) : (s.answerFree w).candlen = s.candlen := rfl
@[simp] theorem State.bitpos_answerFree (s : State) (w : Nat) : (s.answerFree w).bitpos = s.bitpos := rfl
@[simp] theorem State.freq_answerFree (s : State) (w : Nat) : (s.answerFree w).freq = s.freq := rfl
@[simp] theorem State.ent_answerFree (s : State) (w : Nat) : (s.answerFree w).ent = s.ent := rfl
@[simp] theorem State.node_answerFree (s : State) (w : Nat) : (s.answerFree w).node = s.node := rfl
@[simp] theorem State.pq_answerFree (s : State) (w : Nat) : (s.answerFree w).pq = s.pq := rfl
@[simp] theorem State.ct_answerFree (s : State) (w : Nat) : (s.answerFree w).ct = s.ct := rfl
@[simp] theorem State.em_answerFree (s : State) (w : Nat) : (s.answerFree w).em = s.em := rfl
@[simp] theorem State.sched_answerFree (s : State) (w : Nat) : (s.answerFree w).sched = s.sched := rfl
@[simp] theorem State.port_answerFree (s : State) (w : Nat) : (s.answerFree w).port = (Config.hostRead w s.draws).toNat := rfl
@[simp] theorem State.draws_answerFree (s : State) (w : Nat) : (s.answerFree w).draws = s.draws + 1 := rfl
@[simp] theorem State.epoch_answerFree (s : State) (w : Nat) : (s.answerFree w).epoch = s.epoch := rfl

/-! ### withCounter -/

@[simp] theorem State.lenW_withCounter (c : Counter) (s : State) : (s.withCounter c).lenW = s.lenW := rfl
@[simp] theorem State.status_withCounter (c : Counter) (s : State) : (s.withCounter c).status = s.status := rfl
@[simp] theorem State.ilen_withCounter (c : Counter) (s : State) : (s.withCounter c).ilen = s.ilen := rfl
@[simp] theorem State.olen_withCounter (c : Counter) (s : State) : (s.withCounter c).olen = s.olen := rfl
@[simp] theorem State.ibuf_withCounter (c : Counter) (s : State) : (s.withCounter c).ibuf = s.ibuf := rfl
@[simp] theorem State.obuf_withCounter (c : Counter) (s : State) : (s.withCounter c).obuf = s.obuf := rfl
@[simp] theorem State.phase_withCounter (c : Counter) (s : State) : (s.withCounter c).phase = s.phase := rfl
@[simp] theorem State.dir_withCounter (c : Counter) (s : State) : (s.withCounter c).dir = s.dir := rfl
@[simp] theorem State.iptr_withCounter (c : Counter) (s : State) : (s.withCounter c).iptr = c.iptr := rfl
@[simp] theorem State.optr_withCounter (c : Counter) (s : State) : (s.withCounter c).optr = s.optr := rfl
@[simp] theorem State.k_withCounter (c : Counter) (s : State) : (s.withCounter c).k = c.k := rfl
@[simp] theorem State.nn_withCounter (c : Counter) (s : State) : (s.withCounter c).nn = s.nn := rfl
@[simp] theorem State.root_withCounter (c : Counter) (s : State) : (s.withCounter c).root = s.root := rfl
@[simp] theorem State.code_withCounter (c : Counter) (s : State) : (s.withCounter c).code = s.code := rfl
@[simp] theorem State.prevlen_withCounter (c : Counter) (s : State) : (s.withCounter c).prevlen = s.prevlen := rfl
@[simp] theorem State.acc_withCounter (c : Counter) (s : State) : (s.withCounter c).acc = s.acc := rfl
@[simp] theorem State.nbits_withCounter (c : Counter) (s : State) : (s.withCounter c).nbits = s.nbits := rfl
@[simp] theorem State.cand_withCounter (c : Counter) (s : State) : (s.withCounter c).cand = s.cand := rfl
@[simp] theorem State.candlen_withCounter (c : Counter) (s : State) : (s.withCounter c).candlen = s.candlen := rfl
@[simp] theorem State.bitpos_withCounter (c : Counter) (s : State) : (s.withCounter c).bitpos = s.bitpos := rfl
@[simp] theorem State.freq_withCounter (c : Counter) (s : State) : (s.withCounter c).freq = c.freq := rfl
@[simp] theorem State.ent_withCounter (c : Counter) (s : State) : (s.withCounter c).ent = c.ent := rfl
@[simp] theorem State.node_withCounter (c : Counter) (s : State) : (s.withCounter c).node = s.node := rfl
@[simp] theorem State.pq_withCounter (c : Counter) (s : State) : (s.withCounter c).pq = s.pq := rfl
@[simp] theorem State.ct_withCounter (c : Counter) (s : State) : (s.withCounter c).ct = s.ct := rfl
@[simp] theorem State.em_withCounter (c : Counter) (s : State) : (s.withCounter c).em = s.em := rfl
@[simp] theorem State.sched_withCounter (c : Counter) (s : State) : (s.withCounter c).sched = s.sched := rfl
@[simp] theorem State.port_withCounter (c : Counter) (s : State) : (s.withCounter c).port = s.port := rfl
@[simp] theorem State.draws_withCounter (c : Counter) (s : State) : (s.withCounter c).draws = s.draws := rfl
@[simp] theorem State.epoch_withCounter (c : Counter) (s : State) : (s.withCounter c).epoch = s.epoch := rfl

/-! ### withBuilder -/

@[simp] theorem State.lenW_withBuilder (b : Builder) (s : State) : (s.withBuilder b).lenW = s.lenW := rfl
@[simp] theorem State.status_withBuilder (b : Builder) (s : State) : (s.withBuilder b).status = s.status := rfl
@[simp] theorem State.ilen_withBuilder (b : Builder) (s : State) : (s.withBuilder b).ilen = s.ilen := rfl
@[simp] theorem State.olen_withBuilder (b : Builder) (s : State) : (s.withBuilder b).olen = s.olen := rfl
@[simp] theorem State.ibuf_withBuilder (b : Builder) (s : State) : (s.withBuilder b).ibuf = s.ibuf := rfl
@[simp] theorem State.obuf_withBuilder (b : Builder) (s : State) : (s.withBuilder b).obuf = s.obuf := rfl
@[simp] theorem State.phase_withBuilder (b : Builder) (s : State) : (s.withBuilder b).phase = s.phase := rfl
@[simp] theorem State.dir_withBuilder (b : Builder) (s : State) : (s.withBuilder b).dir = s.dir := rfl
@[simp] theorem State.iptr_withBuilder (b : Builder) (s : State) : (s.withBuilder b).iptr = s.iptr := rfl
@[simp] theorem State.optr_withBuilder (b : Builder) (s : State) : (s.withBuilder b).optr = s.optr := rfl
@[simp] theorem State.k_withBuilder (b : Builder) (s : State) : (s.withBuilder b).k = s.k := rfl
@[simp] theorem State.nn_withBuilder (b : Builder) (s : State) : (s.withBuilder b).nn = b.nn := rfl
@[simp] theorem State.root_withBuilder (b : Builder) (s : State) : (s.withBuilder b).root = s.root := rfl
@[simp] theorem State.code_withBuilder (b : Builder) (s : State) : (s.withBuilder b).code = s.code := rfl
@[simp] theorem State.prevlen_withBuilder (b : Builder) (s : State) : (s.withBuilder b).prevlen = s.prevlen := rfl
@[simp] theorem State.acc_withBuilder (b : Builder) (s : State) : (s.withBuilder b).acc = s.acc := rfl
@[simp] theorem State.nbits_withBuilder (b : Builder) (s : State) : (s.withBuilder b).nbits = s.nbits := rfl
@[simp] theorem State.cand_withBuilder (b : Builder) (s : State) : (s.withBuilder b).cand = s.cand := rfl
@[simp] theorem State.candlen_withBuilder (b : Builder) (s : State) : (s.withBuilder b).candlen = s.candlen := rfl
@[simp] theorem State.bitpos_withBuilder (b : Builder) (s : State) : (s.withBuilder b).bitpos = s.bitpos := rfl
@[simp] theorem State.freq_withBuilder (b : Builder) (s : State) : (s.withBuilder b).freq = s.freq := rfl
@[simp] theorem State.ent_withBuilder (b : Builder) (s : State) : (s.withBuilder b).ent = s.ent := rfl
@[simp] theorem State.node_withBuilder (b : Builder) (s : State) : (s.withBuilder b).node = b.node := rfl
@[simp] theorem State.pq_withBuilder (b : Builder) (s : State) : (s.withBuilder b).pq = b.pq := rfl
@[simp] theorem State.ct_withBuilder (b : Builder) (s : State) : (s.withBuilder b).ct = s.ct := rfl
@[simp] theorem State.em_withBuilder (b : Builder) (s : State) : (s.withBuilder b).em = s.em := rfl
@[simp] theorem State.sched_withBuilder (b : Builder) (s : State) : (s.withBuilder b).sched = s.sched := rfl
@[simp] theorem State.port_withBuilder (b : Builder) (s : State) : (s.withBuilder b).port = s.port := rfl
@[simp] theorem State.draws_withBuilder (b : Builder) (s : State) : (s.withBuilder b).draws = s.draws := rfl
@[simp] theorem State.epoch_withBuilder (b : Builder) (s : State) : (s.withBuilder b).epoch = s.epoch := rfl

/-! ### withPacker -/

@[simp] theorem State.lenW_withPacker (p : Packer) (s : State) : (s.withPacker p).lenW = s.lenW := rfl
@[simp] theorem State.status_withPacker (p : Packer) (s : State) : (s.withPacker p).status = s.status := rfl
@[simp] theorem State.ilen_withPacker (p : Packer) (s : State) : (s.withPacker p).ilen = s.ilen := rfl
@[simp] theorem State.olen_withPacker (p : Packer) (s : State) : (s.withPacker p).olen = s.olen := rfl
@[simp] theorem State.ibuf_withPacker (p : Packer) (s : State) : (s.withPacker p).ibuf = s.ibuf := rfl
@[simp] theorem State.obuf_withPacker (p : Packer) (s : State) : (s.withPacker p).obuf = p.obuf := rfl
@[simp] theorem State.phase_withPacker (p : Packer) (s : State) : (s.withPacker p).phase = s.phase := rfl
@[simp] theorem State.dir_withPacker (p : Packer) (s : State) : (s.withPacker p).dir = s.dir := rfl
@[simp] theorem State.iptr_withPacker (p : Packer) (s : State) : (s.withPacker p).iptr = s.iptr := rfl
@[simp] theorem State.optr_withPacker (p : Packer) (s : State) : (s.withPacker p).optr = p.optr := rfl
@[simp] theorem State.k_withPacker (p : Packer) (s : State) : (s.withPacker p).k = s.k := rfl
@[simp] theorem State.nn_withPacker (p : Packer) (s : State) : (s.withPacker p).nn = s.nn := rfl
@[simp] theorem State.root_withPacker (p : Packer) (s : State) : (s.withPacker p).root = s.root := rfl
@[simp] theorem State.code_withPacker (p : Packer) (s : State) : (s.withPacker p).code = s.code := rfl
@[simp] theorem State.prevlen_withPacker (p : Packer) (s : State) : (s.withPacker p).prevlen = s.prevlen := rfl
@[simp] theorem State.acc_withPacker (p : Packer) (s : State) : (s.withPacker p).acc = p.acc := rfl
@[simp] theorem State.nbits_withPacker (p : Packer) (s : State) : (s.withPacker p).nbits = p.nbits := rfl
@[simp] theorem State.cand_withPacker (p : Packer) (s : State) : (s.withPacker p).cand = s.cand := rfl
@[simp] theorem State.candlen_withPacker (p : Packer) (s : State) : (s.withPacker p).candlen = s.candlen := rfl
@[simp] theorem State.bitpos_withPacker (p : Packer) (s : State) : (s.withPacker p).bitpos = s.bitpos := rfl
@[simp] theorem State.freq_withPacker (p : Packer) (s : State) : (s.withPacker p).freq = s.freq := rfl
@[simp] theorem State.ent_withPacker (p : Packer) (s : State) : (s.withPacker p).ent = s.ent := rfl
@[simp] theorem State.node_withPacker (p : Packer) (s : State) : (s.withPacker p).node = s.node := rfl
@[simp] theorem State.pq_withPacker (p : Packer) (s : State) : (s.withPacker p).pq = s.pq := rfl
@[simp] theorem State.ct_withPacker (p : Packer) (s : State) : (s.withPacker p).ct = s.ct := rfl
@[simp] theorem State.em_withPacker (p : Packer) (s : State) : (s.withPacker p).em = s.em := rfl
@[simp] theorem State.sched_withPacker (p : Packer) (s : State) : (s.withPacker p).sched = s.sched := rfl
@[simp] theorem State.port_withPacker (p : Packer) (s : State) : (s.withPacker p).port = s.port := rfl
@[simp] theorem State.draws_withPacker (p : Packer) (s : State) : (s.withPacker p).draws = s.draws := rfl
@[simp] theorem State.epoch_withPacker (p : Packer) (s : State) : (s.withPacker p).epoch = s.epoch := rfl

/-! ### withUnpacker -/

@[simp] theorem State.lenW_withUnpacker (u : Unpacker) (s : State) : (s.withUnpacker u).lenW = s.lenW := rfl
@[simp] theorem State.status_withUnpacker (u : Unpacker) (s : State) : (s.withUnpacker u).status = s.status := rfl
@[simp] theorem State.ilen_withUnpacker (u : Unpacker) (s : State) : (s.withUnpacker u).ilen = s.ilen := rfl
@[simp] theorem State.olen_withUnpacker (u : Unpacker) (s : State) : (s.withUnpacker u).olen = s.olen := rfl
@[simp] theorem State.ibuf_withUnpacker (u : Unpacker) (s : State) : (s.withUnpacker u).ibuf = s.ibuf := rfl
@[simp] theorem State.obuf_withUnpacker (u : Unpacker) (s : State) : (s.withUnpacker u).obuf = u.obuf := rfl
@[simp] theorem State.phase_withUnpacker (u : Unpacker) (s : State) : (s.withUnpacker u).phase = s.phase := rfl
@[simp] theorem State.dir_withUnpacker (u : Unpacker) (s : State) : (s.withUnpacker u).dir = s.dir := rfl
@[simp] theorem State.iptr_withUnpacker (u : Unpacker) (s : State) : (s.withUnpacker u).iptr = u.iptr := rfl
@[simp] theorem State.optr_withUnpacker (u : Unpacker) (s : State) : (s.withUnpacker u).optr = u.optr := rfl
@[simp] theorem State.k_withUnpacker (u : Unpacker) (s : State) : (s.withUnpacker u).k = s.k := rfl
@[simp] theorem State.nn_withUnpacker (u : Unpacker) (s : State) : (s.withUnpacker u).nn = s.nn := rfl
@[simp] theorem State.root_withUnpacker (u : Unpacker) (s : State) : (s.withUnpacker u).root = s.root := rfl
@[simp] theorem State.code_withUnpacker (u : Unpacker) (s : State) : (s.withUnpacker u).code = s.code := rfl
@[simp] theorem State.prevlen_withUnpacker (u : Unpacker) (s : State) : (s.withUnpacker u).prevlen = s.prevlen := rfl
@[simp] theorem State.acc_withUnpacker (u : Unpacker) (s : State) : (s.withUnpacker u).acc = s.acc := rfl
@[simp] theorem State.nbits_withUnpacker (u : Unpacker) (s : State) : (s.withUnpacker u).nbits = s.nbits := rfl
@[simp] theorem State.cand_withUnpacker (u : Unpacker) (s : State) : (s.withUnpacker u).cand = u.cand := rfl
@[simp] theorem State.candlen_withUnpacker (u : Unpacker) (s : State) : (s.withUnpacker u).candlen = u.candlen := rfl
@[simp] theorem State.bitpos_withUnpacker (u : Unpacker) (s : State) : (s.withUnpacker u).bitpos = u.bitpos := rfl
@[simp] theorem State.freq_withUnpacker (u : Unpacker) (s : State) : (s.withUnpacker u).freq = s.freq := rfl
@[simp] theorem State.ent_withUnpacker (u : Unpacker) (s : State) : (s.withUnpacker u).ent = s.ent := rfl
@[simp] theorem State.node_withUnpacker (u : Unpacker) (s : State) : (s.withUnpacker u).node = s.node := rfl
@[simp] theorem State.pq_withUnpacker (u : Unpacker) (s : State) : (s.withUnpacker u).pq = s.pq := rfl
@[simp] theorem State.ct_withUnpacker (u : Unpacker) (s : State) : (s.withUnpacker u).ct = s.ct := rfl
@[simp] theorem State.em_withUnpacker (u : Unpacker) (s : State) : (s.withUnpacker u).em = s.em := rfl
@[simp] theorem State.sched_withUnpacker (u : Unpacker) (s : State) : (s.withUnpacker u).sched = s.sched := rfl
@[simp] theorem State.port_withUnpacker (u : Unpacker) (s : State) : (s.withUnpacker u).port = s.port := rfl
@[simp] theorem State.draws_withUnpacker (u : Unpacker) (s : State) : (s.withUnpacker u).draws = u.draws := rfl
@[simp] theorem State.epoch_withUnpacker (u : Unpacker) (s : State) : (s.withUnpacker u).epoch = s.epoch := rfl

end Sys2Proof.Machine
end

