-- ==== Sys2Proof/Laws/Step.lean ====
section
/-!
SUPPORT. Laws/Step.lean: what a fetch can bring and what a step can do, said once.
-/

namespace Sys2Proof.Machine

open Sys2Proof

/-- The phase operation as one step changes nothing in being fetched. -/
theorem wholePhase_run {s t : State} {i : Instr} (h : wholePhase s = .run i t) :
    t = s ∧ decodePhase s.phase = .ok i := by
  unfold wholePhase at h
  split at h
  · rename_i j hj
    cases h
    exact ⟨rfl, hj⟩
  · cases h

theorem wholePhase_not_access {s t : State} {e : Event} : wholePhase s ≠ .access e t := by
  unfold wholePhase
  split <;> simp

/-- The finest step brings the next container field or the phase operation, and changes nothing. -/
theorem fetchField_run {s t : State} {i : Instr} (h : fetchField s = .run i t) :
    t = s ∧ ((∃ f bs, fieldBytes s = some (f, bs) ∧ decode f bs = .ok i) ∨ decodePhase s.phase = .ok i) := by
  unfold fetchField at h
  split at h
  · exact (wholePhase_run h).imp_right .inr
  · rename_i f bs hf
    split at h
    · rename_i j hj
      cases h
      exact ⟨rfl, .inl ⟨f, bs, hf, hj⟩⟩
    · exact (wholePhase_run h).imp_right .inr

theorem fetchField_not_access {s t : State} {e : Event} : fetchField s ≠ .access e t := by
  unfold fetchField
  split
  · exact wholePhase_not_access
  · split
    · simp
    · exact wholePhase_not_access

theorem fetchPhase_of_begun {s : State} (h : s.headerBegun) : fetchPhase s = fetchField s := if_pos h

theorem fetchPhase_of_not_begun {s : State} (h : ¬ s.headerBegun) : fetchPhase s = wholePhase s := if_neg h

/-- Outside the two header phases a step of the sequencer is the phase operation. -/
theorem not_headerBegun {s : State} (h : s.phase ≠ phHdrr) (g : s.phase ≠ phHdrw) : ¬ s.headerBegun := by
  rintro (⟨e, -⟩ | ⟨e, -⟩)
  · exact h e
  · exact g e

/-- A step of the sequencer brings the phase operation, or the next field of a header begun field by field, and changes
nothing. -/
theorem fetchPhase_run {s t : State} {i : Instr} (h : fetchPhase s = .run i t) :
    t = s ∧ ((s.headerBegun ∧ ∃ f bs, fieldBytes s = some (f, bs) ∧ decode f bs = .ok i) ∨
      decodePhase s.phase = .ok i) := by
  by_cases g : s.headerBegun
  · rw [fetchPhase_of_begun g] at h
    exact (fetchField_run h).imp_right (Or.imp_left (⟨g, ·⟩))
  · rw [fetchPhase_of_not_begun g] at h
    exact (wholePhase_run h).imp_right .inr

theorem fetchPhase_not_access {s t : State} {e : Event} : fetchPhase s ≠ .access e t := by
  unfold fetchPhase
  split
  · exact fetchField_not_access
  · exact wholePhase_not_access

/-- Fetching an instruction takes the event off the list and changes nothing else. -/
theorem fetch_run_state {s t : State} {i : Instr} (h : fetch s = .run i t) :
    t = { s with sched := s.sched.tail } := by
  unfold fetch at h
  split at h
  · rename_i hs
    rw [(fetchPhase_run h).1]
    cases s
    simp_all
  · rename_i hs
    rw [(fetchPhase_run h).1, hs]; rfl
  · rename_i hs
    rw [(fetchField_run h).1, hs]; rfl
  · rename_i hs
    split at h
    · cases h; rw [hs]; rfl
    · cases h
  · cases h

/-- A host access takes its event off the list and comes to `hostAccess` as it was listed. -/
theorem fetch_access_state {s t : State} {e : Event} (h : fetch s = .access e t) :
    s.sched = e :: t.sched ∧ t = { s with sched := s.sched.tail } := by
  unfold fetch at h
  split at h
  · exact absurd h fetchPhase_not_access
  · exact absurd h fetchPhase_not_access
  · exact absurd h fetchField_not_access
  · rename_i v es hs
    split at h
    · cases h
    · cases h; rw [hs]; exact ⟨rfl, rfl⟩
  · rename_i e' es _ _ _ hs
    cases h; rw [hs]; exact ⟨rfl, rfl⟩

/-- An access the port can carry takes its effect; every other one has none. -/
theorem hostAccess_of_fits {e : Event} {s : State} (h : e.fits s.lenW = true) : hostAccess e s = doAccess e s := by
  simp [hostAccess, h]

theorem hostAccess_of_not_fits {e : Event} {s : State} (h : e.fits s.lenW = false) : hostAccess e s = s := by
  simp [hostAccess, h]

/-- No host access, and no reset, changes LEN_W. -/
@[simp] theorem lenW_hostAccess (e : Event) (s : State) : (hostAccess e s).lenW = s.lenW := by
  unfold hostAccess doAccess
  repeat' split
  all_goals try rfl
  unfold State.hostReadObuf
  repeat' split
  all_goals rfl

/-- One step is an instruction or a host access. -/
theorem step_next_cases {s t : State} (h : step s = .next t) :
    (∃ i u, fetch s = .run i u ∧ exec i u = .next t) ∨ (∃ e u, fetch s = .access e u ∧ t = hostAccess e u) := by
  unfold step at h
  split at h
  · exact .inl ⟨_, _, ‹_›, h⟩
  · cases h; exact .inr ⟨_, _, ‹_›, rfl⟩
  · cases h

/-- Nothing is refused. -/
theorem exec_not_refused (i : Instr) (s : State) (r : Refusal) : exec i s ≠ .refused r := by
  cases i <;> simp only [exec, execCompress, execDecompress, execIdle, execInit, execFreq, execBuild, execDepth,
    execSort, execAssign, execHdrw, execPack, execHdrr, execUnpack, execHdrK, execHdrPair] <;>
    repeat' (first | split | simp)

end Sys2Proof.Machine
end

