-- ==== Sys2Proof/Laws/Tables.lean ====
section
/-!
SUPPORT. Laws/Tables.lean: what the queue, the sort and the header tests do, one lemma each, for callers to cite.
-/

namespace Sys2Proof.Machine

open Sys2Proof

/-! ### PQ as a set -/

theorem mem_pqInsert {i j : NodeIx} {pq : List NodeIx} : j ∈ pqInsert i pq ↔ j = i ∨ j ∈ pq := by
  induction pq with
  | nil => simp [pqInsert]
  | cons x xs ih =>
    unfold pqInsert
    split
    · simp
    · split
      · subst_vars; simp
      · simp only [List.mem_cons, ih]; tauto

/-- Inserting keeps the rising order. -/
theorem pqInsert_rising {i : NodeIx} {pq : List NodeIx} (h : pq.Pairwise (fun a b => a < b)) :
    (pqInsert i pq).Pairwise (fun a b => a < b) := by
  induction pq with
  | nil => simp [pqInsert]
  | cons x xs ih =>
    obtain ⟨hx, hxs⟩ := List.pairwise_cons.1 h
    unfold pqInsert
    split
    · rename_i hi
      refine List.pairwise_cons.2 ⟨fun a ha => ?_, h⟩
      rcases List.mem_cons.1 ha with rfl | ha
      · exact hi
      · exact BitVec.lt_trans hi (hx a ha)
    · split
      · exact h
      · refine List.pairwise_cons.2 ⟨fun a ha => ?_, ih hxs⟩
        rcases mem_pqInsert.1 ha with rfl | ha
        · bv_omega
        · exact hx a ha

theorem pqMin_mem {node : Vector Node 509} {pq : List NodeIx} {m : NodeIx} (h : pqMin node pq = some m) : m ∈ pq := by
  induction pq generalizing m with
  | nil => simp [pqMin] at h
  | cons i is ih =>
    unfold pqMin at h
    split at h
    · simp_all
    · rename_i x hx
      split at h
      · cases h; exact List.mem_cons_of_mem _ (ih hx)
      · cases h; exact List.mem_cons_self

theorem pqMin_isSome {node : Vector Node 509} {pq : List NodeIx} (h : pq ≠ []) : ∃ m, pqMin node pq = some m := by
  cases pq with
  | nil => exact absurd rfl h
  | cons i is =>
    unfold pqMin
    split
    · exact ⟨_, rfl⟩
    · split <;> exact ⟨_, rfl⟩

/-- `popmin` removes one member. -/
theorem popMin_some {node : Vector Node 509} {pq rest : List NodeIx} {m : NodeIx}
    (h : popMin node pq = some (m, rest)) : m ∈ pq ∧ rest = pq.erase m := by
  unfold popMin at h
  split at h
  · cases h
  · rename_i x hx
    cases h
    exact ⟨pqMin_mem hx, rfl⟩

theorem popMin_length {node : Vector Node 509} {pq rest : List NodeIx} {m : NodeIx}
    (h : popMin node pq = some (m, rest)) : rest.length = pq.length - 1 := by
  obtain ⟨hm, rfl⟩ := popMin_some h
  exact List.length_erase_of_mem hm

/-! ### The sort of SORT -/

theorem insertEntry_perm (e : Entry) (es : List Entry) : (insertEntry e es).Perm (e :: es) := by
  induction es with
  | nil => exact List.Perm.refl _
  | cons x xs ih =>
    unfold insertEntry
    split
    · exact List.Perm.refl _
    · exact (List.Perm.cons x ih).trans (List.Perm.swap e x xs)

theorem canonicalOrder_perm (es : List Entry) : (canonicalOrder es).Perm es := by
  induction es with
  | nil => exact List.Perm.refl _
  | cons e es ih => exact (insertEntry_perm e _).trans (ih.cons e)

@[simp] theorem length_canonicalOrder (es : List Entry) : (canonicalOrder es).length = es.length :=
  (canonicalOrder_perm es).length_eq

theorem entryLe_iff (x y : Entry) :
    entryLe x y = true ↔ x.len.toNat < y.len.toNat ∨ (x.len = y.len ∧ x.sym.toNat ≤ y.sym.toNat) := by
  simp [entryLe, BitVec.lt_def, BitVec.le_def]

theorem entryLe_total {x y : Entry} (h : ¬ entryLe x y = true) : entryLe y x = true := by
  rw [entryLe_iff] at *
  by_cases hl : x.len = y.len
  · exact .inr ⟨hl.symm, by simp [hl] at h; omega⟩
  · have : x.len.toNat ≠ y.len.toNat := fun e => hl (BitVec.eq_of_toNat_eq e)
    omega

theorem entryLe_trans {x y z : Entry} (h : entryLe x y = true) (g : entryLe y z = true) : entryLe x z = true := by
  rw [entryLe_iff] at *
  rcases h with h | ⟨h, h'⟩ <;> rcases g with g | ⟨g, g'⟩
  · exact .inl (by omega)
  · exact .inl (g ▸ h)
  · exact .inl (h ▸ g)
  · exact .inr ⟨h.trans g, by omega⟩

theorem insertEntry_sorted {e : Entry} {es : List Entry} (h : es.Pairwise (fun x y => entryLe x y = true)) :
    (insertEntry e es).Pairwise (fun x y => entryLe x y = true) := by
  induction es with
  | nil => simp [insertEntry]
  | cons x xs ih =>
    obtain ⟨hx, hxs⟩ := List.pairwise_cons.1 h
    unfold insertEntry
    split
    · rename_i he
      refine List.pairwise_cons.2 ⟨fun a ha => ?_, h⟩
      rcases List.mem_cons.1 ha with rfl | ha
      · exact he
      · exact entryLe_trans he (hx a ha)
    · rename_i he
      refine List.pairwise_cons.2 ⟨fun a ha => ?_, ih hxs⟩
      rcases List.mem_cons.1 ((insertEntry_perm e xs).mem_iff.1 ha) with rfl | ha
      · exact entryLe_total he
      · exact hx a ha

theorem canonicalOrder_sorted (es : List Entry) :
    (canonicalOrder es).Pairwise (fun x y => entryLe x y = true) := by
  induction es with
  | nil => exact List.Pairwise.nil
  | cons e es ih => exact insertEntry_sorted ih

/-- What SORT leaves in a row of CT: the entry's symbol and length where there is one, the code as it was. -/
theorem tget_writeRows (ct : Vector CodeEntry 255) (i : Nat) (es : List Entry) (h : i + es.length ≤ 255) (j : Nat) :
    tget (writeRows ct i es) j =
      if hj : i ≤ j ∧ j - i < es.length then ⟨(es[j - i]'hj.2).sym, (es[j - i]'hj.2).len, (tget ct j).code⟩
      else tget ct j := by
  induction es generalizing ct i with
  | nil => simp [writeRows]
  | cons e es ih =>
    rw [List.length_cons] at h
    rw [writeRows, ih _ _ (by omega)]
    by_cases h1 : j = i
    · subst h1
      simp [show j < 255 by omega]
    · by_cases h2 : i + 1 ≤ j ∧ j - (i + 1) < es.length
      · have h3 : i ≤ j ∧ j - i < (e :: es).length := by simp only [List.length_cons]; omega
        have h4 : j - i = j - (i + 1) + 1 := by omega
        rw [dif_pos h2, dif_pos h3, tget_tset_ne _ _ (Ne.symm h1)]
        simp only [h4, List.getElem_cons_succ]
      · have h3 : ¬(i ≤ j ∧ j - i < (e :: es).length) := by simp only [List.length_cons]; omega
        rw [dif_neg h2, dif_neg h3, tget_tset_ne _ _ (Ne.symm h1)]

/-! ### The header tests -/

/-- The three ways the count byte can go (R160, R165). -/
theorem withCount_cases (k : Byte) (s : State) (go : State → State) :
    (k = 0 ∧ withCount k s go = ({ s with k := k }).raise .invalidSymbolCount) ∨
    (k ≠ 0 ∧ s.ilen < payloadAddr k.toNat ∧ withCount k s go = ({ s with k := k }).raise .truncatedHeader) ∨
    (k ≠ 0 ∧ payloadAddr k.toNat ≤ s.ilen ∧ withCount k s go = go { s with k := k }) := by
  by_cases h : k = 0
  · exact .inl ⟨h, by simp only [withCount, if_pos h]⟩
  · by_cases g : s.ilen < payloadAddr k.toNat
    · exact .inr (.inl ⟨h, g, by simp only [withCount, if_neg h, if_pos g]⟩)
    · exact .inr (.inr ⟨h, by omega, by simp only [withCount, if_neg h, if_neg g]⟩)

/-! ### Bits -/

/-- What PutBit can do: complete a byte, or hold one bit more (R171). -/
theorem putBit_cases (b : Bool) (p : Packer) :
    let acc := (p.acc <<< 1) ||| (BitVec.ofBool b).setWidth 8
    (p.nbits = 7 ∧
      putBit b p = { acc := 0, nbits := 0, obuf := Memory.write p.obuf p.optr acc, optr := p.optr + 1 }) ∨
    (p.nbits ≠ 7 ∧ putBit b p = { p with acc := acc, nbits := p.nbits + 1 }) := by
  by_cases h : p.nbits = 7
  · exact .inl ⟨h, by simp only [putBit, if_pos h]⟩
  · exact .inr ⟨h, by simp only [putBit, if_neg h]⟩

/-- What one payload bit can do: nothing yet, a symbol, or the terminator (R182). -/
theorem unpackBit_cases (rows : List CodeEntry) (b : Bool) (u : Unpacker) :
    let v := u.grow b
    (matchRow rows v.candlen v.cand = none ∧ unpackBit rows b u = .more v) ∨
    (∃ r, matchRow rows v.candlen v.cand = some r ∧ r.sym ≠ Config.term ∧ unpackBit rows b u = .more (v.emit r.sym)) ∨
    (∃ r, matchRow rows v.candlen v.cand = some r ∧ r.sym = Config.term ∧ unpackBit rows b u = .stopped v) := by
  intro v
  have e : unpackBit rows b u = match matchRow rows v.candlen v.cand with
    | none => .more v
    | some r => if r.sym = Config.term then .stopped v else .more (v.emit r.sym) := rfl
  rw [e]
  cases matchRow rows v.candlen v.cand with
  | none => exact .inl ⟨rfl, rfl⟩
  | some r =>
    by_cases g : r.sym = Config.term
    · exact .inr (.inr ⟨r, rfl, g, if_pos g⟩)
    · exact .inr (.inl ⟨r, rfl, g, if_neg g⟩)

/-- A matched row has the candidate's length and value, and the length is no saturated one (R183). -/
theorem matchRow_some {rows : List CodeEntry} {l : BitVec 9} {v : Cand} {r : CodeEntry}
    (h : matchRow rows l v = some r) :
    r ∈ rows ∧ r.len.setWidth 9 = l ∧ r.code = v.setWidth 264 ∧ l ≠ 0 ∧ l ≠ 256 := by
  unfold matchRow at h
  split at h
  · cases h
  · rename_i hl
    have := List.find?_some h
    simp only [Bool.and_eq_true, beq_iff_eq] at this
    exact ⟨List.mem_of_find?_eq_some h, this.1, this.2, by tauto, by tauto⟩

end Sys2Proof.Machine
end

