-- ==== Sys2Proof/Tests/Slice0.lean ====
section
/-!
SUPPORT. Tests/Slice0.lean: the model's own tests. Expected values are the spec's: the encodings of 30_encoding.md, the
examples of the phase rules and the vectors of 95_test_vectors.md, each named in its comment. The `witness_` theorems show,
for each statement with hypotheses, a state that meets them together.
-/

set_option Elab.async false

namespace Sys2Proof.Tests

open Sys2Proof Sys2Proof.Machine

/-- The state after reset with bytes in IBUF and their number in ILEN. -/
def loaded (bs : List Byte) : State :=
  { State.reset with
    ibuf := (List.range bs.length).map (fun i => (i, bs.getD i 0)), ilen := bs.length }

def withEntries (es : List Entry) (s : State) : State :=
  { s with
    k := BitVec.ofNat 8 es.length
    ent := (List.range es.length).foldl (fun t i => tset t i (es.getD i default)) s.ent }

def withRows (rs : List CodeEntry) (s : State) : State :=
  { s with
    k := BitVec.ofNat 8 rs.length
    ct := (List.range rs.length).foldl (fun t i => tset t i (rs.getD i default)) s.ct }

/-- The outcome is a next state with a property. -/
def ends (o : Host.Outcome State Fault Refusal) (p : State → Bool) : Bool :=
  match o with
  | .next t => p t
  | .fault _ => false
  | .refused _ => false

theorem ends_next {o : Host.Outcome State Fault Refusal} {p : State → Bool} (h : ends o p = true) :
    ∃ t, o = .next t := by
  cases o with
  | next t => exact ⟨t, rfl⟩
  | fault f => simp [ends] at h
  | refused r => simp [ends] at h

def outBytes (s : State) (n : Nat) : List (Option Byte) := (List.range n).map (Memory.lookup s.obuf)

/-! ### Encodings, written out bit by bit from R92, R96, R81 and R82 -/

theorem test_decode_compress : decode .cmd [0b00000001] = .ok .compress := by decide
theorem test_decode_decompress : decode .cmd [0b00000010] = .ok .decompress := by decide
theorem test_decode_idle : decode .phase [0b0000] = .ok .idle := by decide
theorem test_decode_init : decode .phase [0b0001] = .ok .init := by decide
theorem test_decode_freq : decode .phase [0b0010] = .ok .freq := by decide
theorem test_decode_build : decode .phase [0b0011] = .ok .build := by decide
theorem test_decode_depth : decode .phase [0b0100] = .ok .depth := by decide
theorem test_decode_sort : decode .phase [0b0101] = .ok .sort := by decide
theorem test_decode_assign : decode .phase [0b0110] = .ok .assign := by decide
theorem test_decode_hdrw : decode .phase [0b0111] = .ok .hdrw := by decide
theorem test_decode_pack : decode .phase [0b1000] = .ok .pack := by decide
theorem test_decode_hdrr : decode .phase [0b1001] = .ok .hdrr := by decide
theorem test_decode_unpack : decode .phase [0b1010] = .ok .unpack := by decide
theorem test_decode_hdrK : decode .hdrK [0b00000110] = .ok (.hdrK 6) := by decide
theorem test_decode_hdrPair : decode .hdrPair [0b01100001, 0b00000010] = .ok (.hdrPair 0x61 2) := by decide

/-- R93, R97 and a short field are rejected by name. -/
theorem test_decode_rejects :
    decode .cmd [0x00] = .rejected (.reservedCmd 0) ∧ decode .cmd [0xFF] = .rejected (.reservedCmd 0xFF) ∧
    decode .phase [0x0F] = .rejected (.reservedPhase 15) ∧ decode .phase [0x10] = .rejected (.notFourBits 0x10) ∧
    decode .hdrPair [0x61] = .rejected (.tooShort .hdrPair) := by decide

/-- The numbers of spec/opcode_table.json, the pair's fields at 15:8 and 7:0. -/
theorem test_table_words :
    decodeTableWord 8 1 = some .compress ∧ decodeTableWord 4 1 = some .init ∧ decodeTableWord 8 10 = some .unpack ∧
    decodeTableWord 8 0xFF = some (.hdrK 0xFF) ∧ decodeTableWord 16 0x6102 = some (.hdrPair 0x61 2) := by decide

/-- The one ill-formed instruction (R89 (a)). -/
theorem test_wf_refuses_zero_count : Instr.wf (.hdrK 0) = false ∧ Instr.wf (.hdrK 1) = true := by decide

/-- Each format, from a table number placed in the state after reset. -/
theorem test_fetch_placed_words :
    ends (step (State.reset.withFetchWord 8 1)) (fun t => t.phase == phInit && t.status == .running) = true ∧
    ends (step (State.reset.withFetchWord 8 9)) (fun t => t.status == .done (some .truncatedHeader)) = true ∧
    ends (step (State.reset.withFetchWord 8 12)) (fun t => t.k == 12) = true ∧
    ends (step (State.reset.withFetchWord 16 0x6102)) (fun t => tget t.ent 0 == ⟨0x61, 2⟩) = true := by
  decide +kernel

/-! ### Phase operations -/

/-- P1 step 2 (acceptance) and VS4 (dropped while running). -/
theorem test_compress_accepts :
    ends (exec .compress (loaded [0x61, 0x62])) (fun t => t.status.toByte == 0x01 && t.olen == 0 &&
      t.dir == .compress && t.phase == phInit) = true ∧
    ends (exec .compress { State.reset with status := .running, phase := phPack })
      (fun t => t.phase == phPack) = true := by decide +kernel

theorem test_decompress_accepts :
    ends (exec .decompress { State.reset with status := .done none, olen := 8 }) (fun t =>
      t.status.toByte == 0x01 && t.olen == 0 && t.dir == .decompress && t.phase == phInit) = true := by decide +kernel

theorem test_idle_stays : ends (exec .idle State.reset) (fun t => t.phase == phIdle && t.status == .idle) = true := by
  decide +kernel

/-- R110's example, with tables that are not clear before. -/
theorem test_init_clears :
    ends (exec .init { State.reset with k := 9, freq := tset State.reset.freq 5 7,
                                        em := tset State.reset.em 5 ⟨true, 1, 1⟩ })
      (fun t => t.k == 0 && tget t.freq 5 == 0 && tget t.em 5 == ⟨false, 1, 1⟩ && t.phase == phFreq) = true := by
  decide +kernel

/-- VF2. -/
theorem test_freq_counts :
    ends (exec .freq (loaded [0x61, 0x0D, 0x62, 0x61])) (fun t =>
      t.entries.map Entry.sym == [0x61, 0x62, 0x00] && tget t.freq 0x61 == 2 && tget t.freq 0x62 == 1 &&
      tget t.freq 0 == 1 && tget t.freq 0x0D == 0 && t.phase == phBuild) = true := by decide +kernel

/-- VF7. -/
theorem test_freq_rejects_zero :
    ends (exec .freq (loaded [0x0D, 0x00])) (fun t => t.status.toByte == 0x12 && t.olen == 0 && t.phase == phIdle) =
      true := by decide +kernel

/-- FREQ's result on "ab" (V2). -/
def abCounted : State :=
  { withEntries [⟨0x61, 0⟩, ⟨0x62, 0⟩, ⟨0x00, 0⟩] (loaded [0x61, 0x62]) with
    freq := tset (tset (tset State.reset.freq 0x61 1) 0x62 1) 0 1 }

/-- R121's example. -/
theorem test_build_merges :
    ends (exec .build abCounted) (fun t =>
      t.root == 4 && t.nn == 5 && (tget t.node 3).c0 == 2 && (tget t.node 3).c1 == 0 && (tget t.node 3).weight == 2 &&
      (tget t.node 4).c0 == 1 && (tget t.node 4).c1 == 3 && (tget t.node 4).weight == 3 &&
      (tget t.node 4).minsym == 0) = true := by decide +kernel

/-- V2: BUILD, then DEPTH gives the lengths 2, 1, 2. -/
theorem test_depth_lengths :
    ends (exec .build abCounted) (fun t => ends (exec .depth t) (fun u =>
      u.entries == [⟨0x61, 2⟩, ⟨0x62, 1⟩, ⟨0x00, 2⟩] && u.phase == phSort)) = true := by decide +kernel

/-- R137. -/
theorem test_depth_forces_one :
    ends (exec .depth (withEntries [⟨0, 0⟩] State.reset)) (fun u => u.entries == [⟨0, 1⟩]) = true := by decide +kernel

/-- VA10: symbol FF is the largest. -/
theorem test_sort_orders :
    ends (exec .sort (withEntries [⟨0xFF, 1⟩, ⟨0x01, 2⟩, ⟨0x00, 2⟩] State.reset)) (fun t =>
      t.rows.map CodeEntry.sym == [0xFF, 0x00, 0x01] && t.rows.map CodeEntry.len == [1, 2, 2]) = true := by
  decide +kernel

/-- VA11: a shift by two; and the encoder's map. -/
theorem test_assign_shifts :
    ends (exec .assign (withRows [⟨0x41, 1, 0⟩, ⟨0x42, 3, 0⟩, ⟨0x43, 3, 0⟩, ⟨0x44, 3, 0⟩, ⟨0x45, 3, 0⟩] State.reset))
      (fun t => t.rows.map CodeEntry.code == [0, 4, 5, 6, 7] && tget t.em 0x45 == ⟨true, 3, 7⟩ &&
        (tget t.em 0x46).valid == false && t.phase == phHdrw) = true := by decide +kernel

/-- VA15: the widest shift; and the decoder leaves the map alone. -/
theorem test_assign_wide :
    ends (exec .assign (withRows [⟨0, 1, 0⟩, ⟨1, 255, 0⟩] { State.reset with dir := .decompress }))
      (fun t => t.rows.map CodeEntry.code == [0, BitVec.ofNat 264 (2 ^ 254)] && (tget t.em 0).valid == false &&
        t.phase == phUnpack) = true := by decide +kernel

/-- VH1. -/
theorem test_hdrw_writes :
    ends (exec .hdrw (withEntries [⟨0x61, 2⟩, ⟨0x62, 1⟩, ⟨0x00, 2⟩] State.reset)) (fun t =>
      outBytes t 8 == [some 0x03, some 0x61, some 0x02, some 0x62, some 0x01, some 0x00, some 0x02, none] &&
      t.optr == 7 && t.phase == phPack) = true := by decide +kernel

/-- VH2. -/
theorem test_hdrr_reads :
    ends (exec .hdrr (loaded [0x03, 0x61, 0x02, 0x62, 0x01, 0x00, 0x02, 0xD0])) (fun t =>
      t.entries == [⟨0x61, 2⟩, ⟨0x62, 1⟩, ⟨0x00, 2⟩] && t.iptr == 7 && t.phase == phSort) = true := by decide +kernel

/-- VH4, VH6, VH8: the error of each header. -/
theorem test_hdrr_errors :
    ends (exec .hdrr (loaded [])) (fun t => t.status.toByte == 0x06) = true ∧
    ends (exec .hdrr (loaded [0x00, 0xFF])) (fun t => t.status.toByte == 0x0E) = true ∧
    ends (exec .hdrr (loaded [0x03, 0x61, 0x02, 0x62, 0x01, 0x00])) (fun t => t.status.toByte == 0x06) = true := by
  decide +kernel

/-- VK5: EM of VA3, the header's seven bytes already out. -/
theorem test_pack_bits :
    ends (exec .pack { loaded [0x61, 0x62] with
        optr := 7, em := tset (tset (tset State.reset.em 0x61 ⟨true, 2, 3⟩) 0x62 ⟨true, 1, 0⟩) 0 ⟨true, 2, 2⟩ })
      (fun t => Memory.lookup t.obuf 7 == some 0xD0 && t.olen == 8 && t.status.toByte == 0x02) = true := by
  decide +kernel

/-- VK4: a whole byte, no padding byte. -/
theorem test_pack_no_padding :
    ends (exec .pack { loaded [0x61, 0x61, 0x61, 0x61, 0x61, 0x61, 0x61] with
        em := tset (tset State.reset.em 0x61 ⟨true, 1, 1⟩) 0 ⟨true, 1, 0⟩ })
      (fun t => outBytes t 2 == [some 0xFE, none] && t.olen == 1) = true := by decide +kernel

/-- CT of VA3. -/
def abRows : List CodeEntry := [⟨0x62, 1, 0⟩, ⟨0x00, 2, 2⟩, ⟨0x61, 2, 3⟩]

/-- VU3, the payload alone. -/
theorem test_unpack_stops :
    ends (exec .unpack (withRows abRows (loaded [0xD0, 0xFF]))) (fun t =>
      outBytes t 3 == [some 0x61, some 0x62, none] && t.olen == 2 && t.status.toByte == 0x02) = true := by
  decide +kernel

/-- VU13. -/
theorem test_unpack_runs_out :
    ends (exec .unpack (withRows abRows (loaded [0xC0]))) (fun t => t.olen == 0 && t.status.toByte == 0x0A) = true := by
  decide +kernel

/-- VH2's count byte and VH5, as fields. -/
theorem test_hdrK :
    ends (exec (.hdrK 3) { loaded [3, 0, 0, 0, 0, 0, 0] with phase := phHdrr }) (fun t => t.k == 3 && t.iptr == 1) = true ∧
    ends (exec (.hdrK 0) { loaded [0] with phase := phHdrr }) (fun t => t.status.toByte == 0x0E) = true := by
  decide +kernel

/-- VH1's and VH2's last pair, as fields. -/
theorem test_hdrPair :
    ends (exec (.hdrPair 0x00 0x02) { State.reset with phase := phHdrr, k := 3, iptr := 5 })
      (fun t => tget t.ent 2 == ⟨0, 2⟩ && t.iptr == 7 && t.phase == phSort) = true ∧
    ends (exec (.hdrPair 0x00 0x02) { State.reset with phase := phHdrw, k := 3, optr := 5 })
      (fun t => Memory.lookup t.obuf 5 == some 0 && Memory.lookup t.obuf 6 == some 2 && t.phase == phPack) = true := by
  decide +kernel

/-- VH1 put out with one field step and then whole steps: each OBUF byte is written once, by its own field. -/
theorem test_hdrw_goes_on_by_field :
    ends (step { withEntries [⟨0x61, 2⟩, ⟨0x62, 1⟩, ⟨0x00, 2⟩] State.reset with
        phase := phHdrw, optr := 1, obuf := [(0, 3)], sched := [.core] })
      (fun t => t.obuf == [(0, 3), (1, 0x61), (2, 2)] && t.optr == 3 && t.phase == phHdrw) = true ∧
    ends (Host.Core.run Sys2Proof.core 4 { withEntries [⟨0x61, 2⟩, ⟨0x62, 1⟩, ⟨0x00, 2⟩] State.reset with
        phase := phHdrw, sched := [.field] })
      (fun t => outBytes t 8 == [some 0x03, some 0x61, some 0x02, some 0x62, some 0x01, some 0x00, some 0x02, none] &&
        t.optr == 7 && t.phase == phPack) = true := by decide +kernel

/-! ### The host port -/

/-- VS1, VS6: STATUS reads, and reading does not clear. -/
theorem test_read_status :
    ends (step { State.reset with status := .done (some .truncatedHeader), sched := [.readStatus] })
      (fun t => t.port == 0x06 && t.status == .done (some .truncatedHeader)) = true := by decide +kernel

/-- VS3: a reserved CMD value. -/
theorem test_reserved_cmd :
    ends (step { State.reset with status := .done none, olen := 8, sched := [.writeCmd 0xFF] })
      (fun t => t.status == .done none && t.olen == 8 && t.phase == phIdle) = true := by decide +kernel

/-- VS4: ILEN and IBUF writes while running. -/
theorem test_writes_dropped_while_busy :
    ends (step { State.reset with status := .running, sched := [.writeIlen 5] }) (fun t => t.ilen == 0) = true ∧
    ends (step { State.reset with status := .running, sched := [.writeIbuf 0 5] }) (fun t => t.ibuf == []) = true := by
  decide +kernel

/-- VS8. -/
theorem test_reset_while_busy :
    ends (step { State.reset with status := .running, ilen := 3, phase := phPack, sched := [.reset] })
      (fun t => t.status == .idle && t.ilen == 0 && t.olen == 0 && t.phase == phIdle) = true := by decide +kernel

/-- LEN_W = 1 (R8): ILEN holds 0 and 1 only, and the empty message (V1) compresses as it does at the default. -/
theorem test_narrow_machine :
    ends (step { State.resetAt 1 with sched := [.writeIlen 1] }) (fun t => t.ilen == 1) = true ∧
    ends (step { State.resetAt 1 with sched := [.writeIlen 2] }) (fun t => t.ilen == 0) = true ∧
    ends (Host.Core.run Sys2Proof.core 9 { State.resetAt 1 with sched := [.writeCmd 0x01] })
      (fun t => outBytes t 5 == [some 1, some 0, some 1, some 0, none] && t.olen == 4) = true := by decide +kernel

/-- VS1 while running (R22, R23, R25). -/
theorem test_register_accesses_while_busy :
    ends (step { State.reset with status := .running, port := 9, sched := [.readCmd] }) (fun t => t.port == 0) = true ∧
    ends (step { State.reset with status := .running, sched := [.writeStatus 0] }) (fun t => t.busy) = true := by
  decide +kernel

/-! ### Witnesses of the statements' hypotheses -/

theorem witness_StepRunsDecodedInstruction :
    (decodePhase State.reset.phase = .ok .idle ∧ State.reset.sched = []) ∧
    (decodePhase { State.reset with phase := phUnpack, sched := [.core] }.phase = .ok .unpack) ∧
    decode .cmd [0x02] = .ok .decompress ∧
    (fieldBytes { loaded [1, 0, 1] with phase := phHdrr } = some (.hdrK, [1]) ∧ decode .hdrK [1] = .ok (.hdrK 1)) ∧
    (fieldBytes { State.reset with phase := phHdrr } = none ∧ decodePhase phHdrr = .ok .hdrr) ∧
    ({ loaded [1, 0, 1] with phase := phHdrr, iptr := 1, k := 1 }.headerBegun ∧
      fieldBytes { loaded [1, 0, 1] with phase := phHdrr, iptr := 1, k := 1 } = some (.hdrPair, [0, 1]) ∧
      decode .hdrPair [0, 1] = .ok (.hdrPair 0 1)) ∧
    ¬ State.reset.headerBegun := by decide +kernel

theorem witness_ReservedPhaseCodeIsStuck :
    (11 ≤ { State.reset with phase := 11 }.phase.toNat ∧ { State.reset with phase := 11 }.sched = []) ∧
    (11 ≤ { State.reset with phase := 15, sched := [.core] }.phase.toNat ∧
      { State.reset with phase := 15, sched := [.core] }.sched = [.core]) ∧
    { State.reset with phase := 11, sched := [.field] }.sched = [.field] := by decide +kernel

theorem witness_CommandsCompleteWhenNotBusy : ¬ State.reset.busy ∧ ({ State.reset with status := .running }).busy := by
  decide +kernel

theorem witness_IdleChangesNoState : State.reset.phase = phIdle ∧ State.reset.sched = [] := by decide +kernel

theorem witness_PhaseWritesItsSuccessor :
    ∃ t, decodePhase State.reset.phase = .ok .idle ∧ successor State.reset.phase State.reset.dir = some phIdle ∧
      exec .idle State.reset = .next t := ⟨_, by decide, by decide, rfl⟩

/-- A running HDRR with nothing in IBUF. -/
def emptyHdrr : State := { State.reset with status := .running, phase := phHdrr, dir := .decompress }

theorem witness_BusyEndsByFinishAbortOrReset :
    ∃ t, step emptyHdrr = .next t ∧ emptyHdrr.busy ∧ ¬ t.busy :=
  ⟨emptyHdrr.raise .truncatedHeader, rfl, rfl, by simp [State.busy, State.raise]⟩

/-- A command that ended without error, one byte of result. -/
def finished : State := { State.reset with status := .done none, olen := 1, obuf := [(0, 7)] }

theorem finished_inv : Inv finished where
  lenW_pos := by decide
  ibuf_wf := List.Pairwise.nil
  obuf_wf := by decide
  phase_assigned := by decide
  busy_iff := by decide
  olen_zero := by decide
  queue_rising := by decide
  encoder_dir := by decide
  decoder_dir := by decide
  bits_fresh := by decide
  optr_zero := by decide
  optr_hdrw := by decide
  optr_pack := by decide
  iptr_le := by decide
  iptr_hdrr := by decide
  iptr_payload := by decide

theorem witness_ResultStaysUntilNextCommand :
    ∃ t, Inv finished ∧ ¬ finished.busy ∧ step finished = .next t ∧ ¬ t.busy ∧ finished.sched.head? ≠ some .reset :=
  ⟨finished, finished_inv, by decide, rfl, by decide, by decide⟩

theorem witness_NoInstructionWritesItsInput : ∃ t, exec .idle State.reset = .next t := ⟨_, rfl⟩

theorem witness_HostAccessWhileBusy :
    emptyHdrr.busy ∧ 2 ^ 32 - 1 < 2 ^ emptyHdrr.lenW ∧ 2 ^ 40 - 1 < 2 ^ (emptyHdrr.lenW + 8) := by decide

theorem witness_HostAccessWhileNotBusy :
    ¬ finished.busy ∧ 2 ^ 32 - 1 < 2 ^ finished.lenW ∧ 0 < finished.olen ∧ Memory.lookup finished.obuf 0 = some 7 ∧
    finished.olen ≤ 1 ∧ 2 ^ 40 - 1 < 2 ^ (finished.lenW + 8) := by decide

theorem witness_AccessBeyondTheWidthsDoesNothing :
    2 ^ State.reset.lenW ≤ 2 ^ 32 ∧ 2 ^ (State.reset.lenW + 8) ≤ 2 ^ 40 ∧ 2 ^ (State.resetAt 1).lenW ≤ 2 := by decide

theorem witness_FreqCountsMessage :
    (loaded [0x61]).k = 0 ∧ (∀ x : Byte, tget (loaded [0x61]).freq x.toNat = 0) ∧
      Config.term ∉ (loaded [0x61]).message :=
  ⟨rfl, fun x => tget_replicate x.isLt, by decide +kernel⟩

theorem witness_FreqLeavesProperTable :
    (loaded []).k = 0 ∧ (∀ x : Byte, tget (loaded []).freq x.toNat = 0) ∧ Config.term ∉ (loaded []).message :=
  ⟨rfl, fun x => tget_replicate x.isLt, by decide +kernel⟩

theorem witness_FreqRejectsReservedByte :
    ∃ a, a < (loaded [0x0D, 0x00]).ilen ∧ (loaded [0x0D, 0x00]).readIbuf a = 0 := ⟨1, by decide +kernel⟩

theorem witness_BuildMergesLowestKeys :
    (abCounted.k ≠ 0 ∧ abCounted.entries.Pairwise (fun e f => e.sym ≠ f.sym)) ∧
    ((withEntries [⟨0, 0⟩] State.reset).k ≠ 0 ∧
      (withEntries [⟨0, 0⟩] State.reset).entries.Pairwise (fun e f => e.sym ≠ f.sym)) := by decide +kernel

theorem witness_EncoderCodesAreCanonical :
    abCounted.k ≠ 0 ∧ 2 ≤ abCounted.k.toNat ∧ (withEntries [⟨0, 0⟩] State.reset).k ≠ 0 := by decide +kernel

/-- The two rows of length 2 of VA3. -/
theorem witness_EqualLengthCodesFollowSymbols :
    ends (exec .sort (withEntries [⟨0x61, 2⟩, ⟨0x62, 1⟩, ⟨0x00, 2⟩] State.reset)) (fun t => ends (exec .assign t) (fun u =>
      u.rows == [⟨0x62, 1, 0⟩, ⟨0x00, 2, 2⟩, ⟨0x61, 2, 3⟩])) = true := by decide +kernel

/-- The tree of message "a" (VB2): leaf 1 is the "0" child, leaf 0 the "1" child. -/
def twoLeaves : State :=
  { State.reset with
    k := 2, root := 2
    node := tset (tset (tset State.reset.node 0 ⟨true, 0x61, 0, 0, 1, 0x61, 0⟩) 1 ⟨true, 0, 0, 0, 1, 0, 0⟩) 2
      ⟨false, 0, 1, 0, 2, 0, 0⟩ }

theorem witness_DepthMeasuresLeaves : TreeShaped twoLeaves where
  has_leaf := by decide
  root_last := rfl
  child_before := by
    intro i h1 h2
    have h1' : 2 ≤ i := h1
    have h2' : i ≤ 2 := h2
    obtain rfl : i = 2 := by omega
    decide +kernel
  one_parent := by
    intro x hx
    have hx' : x < 2 := hx
    refine ⟨2, ⟨Nat.le_refl 2, Nat.le_refl 2, ?_⟩, fun j hj => ?_⟩
    · rcases (by omega : x = 0 ∨ x = 1) with rfl | rfl <;> decide +kernel
    · have h1 : 2 ≤ j := hj.1
      have h2 : j ≤ 2 := hj.2.1
      omega

theorem witness_CodeLengthsFillKraftSum :
    (twoLeaves.k ≠ 0 ∧ 2 ≤ twoLeaves.k.toNat) ∧ (withEntries [⟨0, 0⟩] State.reset).k = 1 := by decide +kernel

theorem witness_CodeIsOptimal :
    2 ≤ abCounted.k.toNat ∧ (tget abCounted.freq (tget abCounted.ent 0).sym.toNat) = 1 := by decide +kernel

theorem abRows_rising : (withRows abRows State.reset).rowsRising := by
  intro i j hij hj
  have hj' : j < 3 := hj
  rcases (by omega : (i = 0 ∧ j = 1) ∨ (i = 0 ∧ j = 2) ∨ (i = 1 ∧ j = 2)) with ⟨rfl, rfl⟩ | ⟨rfl, rfl⟩ | ⟨rfl, rfl⟩ <;>
    decide +kernel

theorem witness_AssignCountsCanonicalCodes :
    (withRows abRows State.reset).rowsRising ∧ (withRows abRows State.reset).dir = .compress ∧
    (withRows abRows State.reset).k ≠ 0 ∧ State.reset.rowsRising ∧ State.reset.k = 0 :=
  ⟨abRows_rising, rfl, by decide +kernel, fun _ _ _ h => absurd h (Nat.not_lt_zero _), rfl⟩

theorem witness_CompleteCodesFitTheirLengths :
    (withRows abRows State.reset).rowsRising ∧
    kraft ((withRows abRows State.reset).rows.map (fun r => r.len.toNat)) = 2 ^ 255 :=
  ⟨abRows_rising, by decide +kernel⟩

/-- A state about to run PACK for the empty message (V1): the header is out, the terminator has its code. -/
def aboutToPack : State :=
  { State.reset with
    status := .running, phase := phPack, k := 1, ent := tset State.reset.ent 0 ⟨0, 1⟩, optr := 3
    obuf := [(0, 1), (1, 0), (2, 1)], em := tset State.reset.em 0 ⟨true, 1, 0⟩ }

theorem aboutToPack_inv : Inv aboutToPack where
  lenW_pos := by decide
  ibuf_wf := List.Pairwise.nil
  obuf_wf := by decide
  phase_assigned := by decide
  busy_iff := by decide
  olen_zero := by decide
  queue_rising := by decide
  encoder_dir := by decide
  decoder_dir := by decide
  bits_fresh := by decide
  optr_zero := by decide
  optr_hdrw := by decide
  optr_pack := by decide
  iptr_le := by decide
  iptr_hdrr := by decide
  iptr_payload := by decide

theorem aboutToPack_covered : Covered aboutToPack where
  freq_clear := fun h => absurd h (by decide)
  has_entries := by decide
  in_entries := fun h => absurd h (by decide)
  in_rows := fun h => absurd h (by decide)
  in_map := fun _ => by decide +kernel

theorem witness_StepKeepsInv : ∃ t, Inv finished ∧ step finished = .next t := ⟨_, finished_inv, rfl⟩

theorem witness_EveryStepIsSafe : Inv aboutToPack ∧ Covered aboutToPack := ⟨aboutToPack_inv, aboutToPack_covered⟩

theorem weight_replicate {n : Nat} {v : Node} (h : v.weight = 0) (i : Nat) :
    (tget (Vector.replicate n v) i).weight = 0 := by
  by_cases hi : i < n
  · rw [tget_replicate hi, h]
  · simp [tget, hi]; rfl

theorem aboutToPack_weight (i : Nat) : (tget aboutToPack.node i).weight = 0 :=
  weight_replicate (n := 509) (v := ⟨false, 0, 0, 0, 0, 0, 0⟩) rfl i

theorem aboutToPack_fits : Fits aboutToPack where
  ilen_lt := by decide
  iptr_lt := by decide
  olen_lt := by decide
  optr_lt := by decide
  port_lt := by decide
  freq_lt := by decide +kernel
  weight_lt := fun i => by
    rw [aboutToPack_weight]
    exact Nat.two_pow_pos _
  ibuf_lt := fun _ h => absurd h List.not_mem_nil
  obuf_lt := by decide
  counts_sum := fun h => absurd h (by decide)
  few_entries := by decide

theorem witness_StepKeepsWidths :
    ∃ t, step aboutToPack = .next t ∧ Inv aboutToPack ∧ Covered aboutToPack ∧ Fits aboutToPack := by
  obtain ⟨t, h⟩ := ends_next (o := step aboutToPack) (p := fun t => t.olen == 4) (by decide +kernel)
  exact ⟨t, h, aboutToPack_inv, aboutToPack_covered, aboutToPack_fits⟩

/-- HDRW begun: the count byte is out. -/
def hdrwBegun : State :=
  { aboutToPack with phase := phHdrw, optr := 1, obuf := [(0, 1)] }

theorem hdrwBegun_inv : Inv hdrwBegun where
  lenW_pos := by decide
  ibuf_wf := List.Pairwise.nil
  obuf_wf := by decide
  phase_assigned := by decide
  busy_iff := by decide
  olen_zero := by decide
  queue_rising := by decide
  encoder_dir := by decide
  decoder_dir := by decide
  bits_fresh := by decide
  optr_zero := by decide
  optr_hdrw := by decide
  optr_pack := by decide
  iptr_le := by decide
  iptr_hdrr := by decide
  iptr_payload := by decide

theorem hdrwBegun_covered : Covered hdrwBegun where
  freq_clear := fun h => absurd h (by decide)
  has_entries := by decide
  in_entries := fun h => absurd h (by decide)
  in_rows := fun h => absurd h (by decide)
  in_map := fun _ => by decide +kernel

theorem witness_RunningCommandTerminates_begun :
    Inv hdrwBegun ∧ Covered hdrwBegun ∧ hdrwBegun.sched = [] ∧ hdrwBegun.headerBegun :=
  ⟨hdrwBegun_inv, hdrwBegun_covered, rfl, by decide⟩

theorem witness_OutputIsWrittenForward :
    ∃ t, Inv hdrwBegun ∧ step hdrwBegun = .next t ∧ hdrwBegun.sched.head? ≠ some .reset ∧ hdrwBegun.busy ∧
      hdrwBegun.phase ≠ phInit := by
  obtain ⟨t, h⟩ := ends_next (o := step hdrwBegun) (p := fun t => t.optr == 3) (by decide +kernel)
  exact ⟨t, hdrwBegun_inv, h, by decide, by decide, by decide⟩

/-- UNPACK of a payload, with and without a byte beyond ILEN. -/
theorem witness_BytesBeyondIlenDoNotMatter :
    (∀ a, a < (withRows abRows (loaded [0xD0])).ilen →
      { withRows abRows (loaded [0xD0]) with ibuf := [(0, 0xD0), (1, 0xFF)] }.readIbuf a =
        (withRows abRows (loaded [0xD0])).readIbuf a) ∧
    ∃ t, exec .unpack (withRows abRows (loaded [0xD0])) = .next t :=
  ⟨by decide +kernel, ends_next (p := fun t => t.olen == 2) (by decide +kernel)⟩

theorem witness_RunningCommandTerminates : Inv aboutToPack ∧ Covered aboutToPack ∧ aboutToPack.sched = [] :=
  ⟨aboutToPack_inv, aboutToPack_covered, rfl⟩

theorem witness_PhasesCompleteInEveryState :
    Config.term ∉ (loaded [0x61]).message ∧ aboutToPack.k ≠ 0 ∧ aboutToPack.acc = 0 ∧ aboutToPack.nbits = 0 ∧
    ∀ b ∈ Contract.extended aboutToPack.message, (tget aboutToPack.em b.toNat).valid = true := by decide +kernel

theorem witness_HdrrReadsCountAndPairs :
    (loaded [1, 0, 1]).ilen ≠ 0 ∧ (loaded [1, 0, 1]).readIbuf 0 ≠ 0 ∧
    1 + 2 * ((loaded [1, 0, 1]).readIbuf 0).toNat ≤ (loaded [1, 0, 1]).ilen := by decide +kernel

theorem witness_HdrrRaisesOnBadHeader :
    (loaded []).ilen = 0 ∧ ((loaded [0]).ilen ≠ 0 ∧ (loaded [0]).readIbuf 0 = 0) ∧
    ((loaded [1, 0]).ilen ≠ 0 ∧ (loaded [1, 0]).readIbuf 0 ≠ 0 ∧
      (loaded [1, 0]).ilen < 1 + 2 * ((loaded [1, 0]).readIbuf 0).toNat) := by decide +kernel

theorem witness_HeaderRoundTrip :
    aboutToPack.k ≠ 0 ∧ 1 + 2 * aboutToPack.k.toNat ≤ (loaded [1, 0, 1]).ilen ∧
    ends (exec .hdrw aboutToPack) (fun t =>
      (List.range 3).all (fun a => Memory.lookup t.obuf a == some ((loaded [1, 0, 1]).readIbuf a))) = true := by
  decide +kernel

theorem witness_CountByteIsConsumedAndProduced :
    ({ loaded [1, 0, 1] with phase := phHdrr }.phase = phHdrr ∧ (1 : Byte) ≠ 0 ∧
      1 + 2 * (1 : Byte).toNat ≤ (loaded [1, 0, 1]).ilen) ∧
    ({ loaded [0] with phase := phHdrr }.phase = phHdrr ∧ (0 : Byte) = 0) ∧
    ({ loaded [1, 0] with phase := phHdrr }.phase = phHdrr ∧ (1 : Byte) ≠ 0 ∧
      (loaded [1, 0]).ilen < 1 + 2 * (1 : Byte).toNat) ∧
    { aboutToPack with phase := phHdrw }.phase = phHdrw := by decide +kernel

theorem witness_PairIsConsumedAndProduced :
    (0 < aboutToPack.k.toNat ∧ { aboutToPack with phase := phHdrr, iptr := 1 }.iptr = 1 + 2 * 0) ∧
    (1 < twoLeaves.k.toNat ∧ { twoLeaves with phase := phHdrw, optr := 3 }.optr = 1 + 2 * 1) := by
  decide +kernel

theorem witness_FieldOutsideHeaderPhasesChangesNothing : State.reset.phase ≠ phHdrr ∧ State.reset.phase ≠ phHdrw := by
  decide

theorem witness_HdrrFieldByFieldIsHdrr :
    { loaded [1, 0, 1] with phase := phHdrr }.phase = phHdrr ∧ (loaded [1, 0, 1]).iptr = 0 ∧
    [Event.core].length = ((loaded [1, 0, 1]).readIbuf 0).toNat ∧ ∀ e ∈ [Event.core], e = .field ∨ e = .core := by
  decide +kernel

theorem witness_HdrwFieldByFieldIsHdrw :
    { aboutToPack with phase := phHdrw, optr := 0 }.phase = phHdrw ∧
    { aboutToPack with phase := phHdrw, optr := 0 }.optr = 0 ∧
    [Event.core].length = aboutToPack.k.toNat ∧ ∀ e ∈ [Event.core], e = .field ∨ e = .core := by decide

theorem witness_PackWritesCodewords :
    aboutToPack.acc = 0 ∧ aboutToPack.nbits = 0 ∧
    ∀ b ∈ Contract.extended aboutToPack.message, (tget aboutToPack.em b.toNat).valid = true := by decide +kernel

theorem witness_PackLookupMissIsFault :
    ∃ b ∈ Contract.extended State.reset.message, (tget State.reset.em b.toNat).valid = false :=
  ⟨0, by decide +kernel⟩

/-- Both outcomes: the payload of VU3 and that of VU13. -/
theorem witness_UnpackDecodesPayload :
    (State.reset.cand = 0 ∧ State.reset.candlen = 0) ∧
    Contract.decodeBits (Contract.codeTable abRows) (Contract.bitsOf [0xD0]) [] = some [0x61, 0x62] ∧
    Contract.decodeBits (Contract.codeTable abRows) (Contract.bitsOf [0xC0]) [] = none := by decide +kernel

theorem witness_DecodeEncodeAgree : decode .phase [0x0A, 0x00] = .ok .unpack := by decide

theorem witness_CompressMeetsContract : ¬ State.reset.busy := by decide

theorem witness_DecompressMeetsContract : ¬ finished.busy := by decide

/-- V1: the outer hypotheses, and a second state that meets the inner ones for the container `01 00 01 00`. -/
theorem witness_RoundTrip :
    ¬ (loaded []).busy ∧ Config.term ∉ (loaded []).message ∧
    ends (Host.Core.run Sys2Proof.core 9 { loaded [] with sched := [.writeCmd 0x01] }) (fun t =>
      decide (¬ (loaded [1, 0, 1, 0]).busy) && (loaded [1, 0, 1, 0]).ilen == t.olen &&
      (List.range t.olen).all
        (fun a => Memory.lookup t.obuf a == some ((loaded [1, 0, 1, 0]).readIbuf a))) = true := by decide +kernel

theorem witness_RoundTrip_reserved : ¬ (loaded [0x00]).busy ∧ Config.term ∈ (loaded [0x00]).message := by
  decide +kernel

theorem witness_ResultDependsOnInputAlone :
    ¬ (loaded [0x61]).busy ∧ ¬ ({ loaded [0x61] with k := 9, olen := 5, status := .done none }).busy ∧
    (loaded [0x61]).message = ({ loaded [0x61] with k := 9, olen := 5, status := .done none } : State).message := by
  decide +kernel

end Sys2Proof.Tests
end

namespace Sys2Proof.Machine

open Sys2Proof

/-! ### Which instruction a step can run

One predicate, read off the decoder and the field fetch, so that a proof about steps is a case split on the instruction. -/

/-- What a state must show for a step to run an instruction there: PHASE for a phase operation (R96), the header phase and
its cursor for a container field (R82, R88). A command comes from the host at any time (R22). -/
def Runnable (s : State) : Instr → Prop
  | .compress => True
  | .decompress => True
  | .idle => s.phase = phIdle
  | .init => s.phase = phInit
  | .freq => s.phase = phFreq
  | .build => s.phase = phBuild
  | .depth => s.phase = phDepth
  | .sort => s.phase = phSort
  | .assign => s.phase = phAssign
  | .hdrw => s.phase = phHdrw
  | .pack => s.phase = phPack
  | .hdrr => s.phase = phHdrr
  | .unpack => s.phase = phUnpack
  | .hdrK k =>
    (s.phase = phHdrr ∧ s.iptr = 0 ∧ s.ilen ≠ 0 ∧ k = s.readIbuf 0) ∨ (s.phase = phHdrw ∧ s.optr = 0 ∧ k = s.k)
  | .hdrPair sym len =>
    (s.phase = phHdrr ∧ s.iptr ≠ 0 ∧ sym = s.readIbuf s.iptr ∧ len = s.readIbuf (s.iptr + 1)) ∨
    (s.phase = phHdrw ∧ s.optr ≠ 0 ∧
      sym = (tget s.ent (pairAt s.optr)).sym ∧ len = (tget s.ent (pairAt s.optr)).len)

theorem runnable_of_decodePhase {s : State} {i : Instr} (h : decodePhase s.phase = .ok i) : Runnable s i := by
  unfold decodePhase at h
  repeat' split at h
  all_goals cases h
  all_goals assumption

theorem runnable_of_decodeCmd {s : State} {v : Byte} {i : Instr} (h : decodeCmd v = .ok i) : Runnable s i := by
  unfold decodeCmd at h
  split at h
  · cases h; trivial
  · split at h
    · cases h; trivial
    · cases h

/-- The next container field runs where `fieldBytes` found its bytes. -/
theorem runnable_of_field {s : State} {f : Format} {bs : List Byte} {i : Instr} (h : fieldBytes s = some (f, bs))
    (g : decode f bs = .ok i) : Runnable s i := by
  unfold fieldBytes at h
  split at h
  · rename_i hp
    split at h
    · cases h; cases g; exact .inl ⟨hp, ‹_›, rfl, rfl⟩
    · split at h
      · cases h
      · rename_i hi hl
        cases h; cases g; exact .inl ⟨hp, not_not.1 hi, hl, rfl⟩
  · split at h
    · rename_i hp
      split at h
      · cases h; cases g; exact .inr ⟨hp, ‹_›, rfl, rfl⟩
      · rename_i ho
        cases h; cases g; exact .inr ⟨hp, not_not.1 ho, rfl⟩
    · cases h

theorem fetchPhase_runnable {s t : State} {i : Instr} (h : fetchPhase s = .run i t) : Runnable s i := by
  obtain ⟨-, ⟨-, f, bs, hf, hd⟩ | hd⟩ := fetchPhase_run h
  · exact runnable_of_field hf hd
  · exact runnable_of_decodePhase hd

theorem fetchField_runnable {s t : State} {i : Instr} (h : fetchField s = .run i t) : Runnable s i := by
  obtain ⟨-, ⟨f, bs, hf, hd⟩ | hd⟩ := fetchField_run h
  · exact runnable_of_field hf hd
  · exact runnable_of_decodePhase hd

/-- The instruction a fetch brings is runnable where it runs. -/
theorem fetch_runnable {s t : State} {i : Instr} (h : fetch s = .run i t) : Runnable t i := by
  unfold fetch at h
  split at h
  · rw [(fetchPhase_run h).1]; exact fetchPhase_runnable h
  · rw [(fetchPhase_run h).1]; exact fetchPhase_runnable h
  · rw [(fetchField_run h).1]; exact fetchField_runnable h
  · split at h
    · cases h; exact runnable_of_decodeCmd ‹_›
    · cases h
  · cases h

/-- What a step can do: with its event off the list, run an instruction that is runnable there, or make the host access
listed. -/
theorem step_cases {s t : State} (h : step s = .next t) :
    (∃ i, Runnable { s with sched := s.sched.tail } i ∧ exec i { s with sched := s.sched.tail } = .next t) ∨
    (∃ e, s.sched.head? = some e ∧ t = hostAccess e { s with sched := s.sched.tail }) := by
  obtain ⟨i, u, hf, he⟩ | ⟨e, u, hf, rfl⟩ := step_next_cases h
  · obtain rfl := fetch_run_state hf
    exact .inl ⟨i, fetch_runnable hf, he⟩
  · obtain ⟨hs, rfl⟩ := fetch_access_state hf
    exact .inr ⟨e, by rw [hs]; rfl, rfl⟩

/-! ### What an instruction leaves of its input -/

/-- No instruction writes the input, the list of events, the read port, the reset count or LEN_W (R24, R26). -/
theorem exec_keeps_input {i : Instr} {s t : State} (h : exec i s = .next t) :
    t.ibuf = s.ibuf ∧ t.ilen = s.ilen ∧ t.sched = s.sched ∧ t.port = s.port ∧ t.epoch = s.epoch ∧ t.lenW = s.lenW := by
  cases i <;> simp only [exec, execCompress, execDecompress, execIdle, execInit, execFreq, execBuild, execDepth,
    execSort, execAssign, execHdrw, execPack, execHdrr, execUnpack, execHdrK, execHdrPair, withCount] at h
  all_goals
    repeat' split at h
    all_goals cases h
    all_goals exact ⟨rfl, rfl, rfl, rfl, rfl, rfl⟩

/-- No step changes LEN_W (R8). -/
theorem lenW_step {s t : State} (h : step s = .next t) : t.lenW = s.lenW := by
  obtain ⟨i, -, he⟩ | ⟨e, -, rfl⟩ := step_cases h
  · obtain ⟨-, -, -, -, -, hw⟩ := exec_keeps_input he
    exact hw
  · exact lenW_hostAccess _ _

/-! ### The invariants do not speak of the coming events -/

theorem Inv.of_sched {s : State} (h : Inv s) (es : List Event) : Inv { s with sched := es } := { h with }

theorem Covered.of_sched {s : State} (h : Covered s) (es : List Event) : Covered { s with sched := es } := { h with }

theorem Fits.of_sched {s : State} (h : Fits s) (es : List Event) : Fits { s with sched := es } := { h with }

end Sys2Proof.Machine

namespace Sys2Proof.Machine

open Sys2Proof

/-! ### First occurrences (R114) -/

namespace Contract

theorem term_ne_cr : Config.term ≠ Config.cr := by decide

theorem firstOccurrences_concat (m : List Byte) (b : Byte) :
    firstOccurrences (m ++ [b]) =
      if b ∈ firstOccurrences m then firstOccurrences m else firstOccurrences m ++ [b] := by
  rw [firstOccurrences, List.foldl_append]
  rfl

@[simp] theorem mem_firstOccurrences {m : List Byte} {x : Byte} : x ∈ firstOccurrences m ↔ x ∈ m := by
  induction m using List.reverseRecOn with
  | nil => simp [firstOccurrences]
  | append_singleton m b ih =>
    rw [firstOccurrences_concat]
    split
    · rename_i hb
      rw [ih, List.mem_append, List.mem_singleton]
      exact ⟨.inl, fun h => h.elim id fun e => ih.1 (e ▸ hb)⟩
    · simp [ih]

theorem nodup_firstOccurrences (m : List Byte) : (firstOccurrences m).Nodup := by
  induction m using List.reverseRecOn with
  | nil => exact List.nodup_nil
  | append_singleton m b ih =>
    rw [firstOccurrences_concat]
    split
    · exact ih
    · rename_i hb
      exact List.nodup_append.2 ⟨ih, List.nodup_singleton b, fun x hx y hy e => hb (List.mem_singleton.1 hy ▸ e ▸ hx)⟩

/-- The counts of the distinct symbols add up to the length (R116). -/
theorem sum_count_firstOccurrences (m : List Byte) : ((firstOccurrences m).map m.count).sum = m.length := by
  have hp : (firstOccurrences m).Perm m.dedup :=
    (List.perm_ext_iff_of_nodup (nodup_firstOccurrences m) m.nodup_dedup).2 (by simp)
  rw [(hp.map _).sum_eq]
  exact List.sum_map_count_dedup_eq_length m

theorem length_firstOccurrences_le (m : List Byte) : (firstOccurrences m).length ≤ m.length :=
  ((nodup_firstOccurrences m).subperm fun _ h => mem_firstOccurrences.1 h).length_le

/-- Two byte values never occur in a filtered message: at most 254 symbols are left (R7, R114). -/
theorem length_firstOccurrences_filterCr {m : List Byte} (h : Config.term ∉ m) :
    (firstOccurrences (filterCr m)).length ≤ 254 := by
  have hn : (Config.term :: Config.cr :: firstOccurrences (filterCr m)).Nodup := by
    simp [filterCr, h, nodup_firstOccurrences, term_ne_cr]
  have hc := (hn.map BitVec.toFin_injective).length_le_card
  simp only [List.length_map, List.length_cons, Fintype.card_fin] at hc
  omega

theorem filterCr_concat (m : List Byte) (b : Byte) :
    filterCr (m ++ [b]) = if b = Config.cr then filterCr m else filterCr m ++ [b] := by
  by_cases h : b = Config.cr <;> simp [filterCr, h]

theorem length_filterCr_le (m : List Byte) : (filterCr m).length ≤ m.length := List.length_filter_le _ _

theorem length_extended_le (m : List Byte) : (extended m).length ≤ m.length + 1 := by
  simpa [extended] using length_filterCr_le m

theorem count_term_filterCr {m : List Byte} (h : Config.term ∉ m) : (filterCr m).count Config.term = 0 :=
  List.count_eq_zero.2 fun hm => h (List.mem_of_mem_filter hm)

end Contract

/-! ### The FREQ scan (R111) -/

/-- The symbols a scan has entered in ENT so far. -/
def Counter.symbols (c : Counter) : List Byte := (List.range c.k.toNat).map (fun j => (tget c.ent j).sym)

@[simp] theorem Counter.length_symbols (c : Counter) : c.symbols.length = c.k.toNat := by simp [Counter.symbols]

theorem Counter.symbols_addEntry {c : Counter} (b : Byte) (h : c.k.toNat < 255) :
    (c.addEntry b).symbols = c.symbols ++ [b] := by
  have hk : (c.k + 1).toNat = c.k.toNat + 1 := by bv_omega
  simp only [Counter.symbols, Counter.addEntry, hk, List.range_succ, List.map_append, List.map_cons, List.map_nil]
  congr 1
  · refine List.map_congr_left fun j hj => ?_
    rw [tget_tset_ne _ _ (Nat.ne_of_gt (List.mem_range.1 hj))]
  · rw [tget_tset_same _ _ h]

/-- Reading a count after one count was written. -/
theorem tget_tset_byte (t : Vector Nat 256) (b : Byte) (n : Nat) (x : Byte) :
    tget (tset t b.toNat n) x.toNat = if b = x then n else tget t x.toNat := by
  simp [tget_tset, BitVec.toNat_inj, b.isLt]

/-- A counted byte, field by field: it is entered where its count was 0, and its count is one higher (R111). -/
theorem Counter.count_symbols (c : Counter) (b : Byte) :
    (c.count b).symbols = if tget c.freq b.toNat = 0 then (c.addEntry b).symbols else c.symbols := by
  unfold Counter.count
  split <;> rfl

theorem Counter.count_freq (c : Counter) (b x : Byte) :
    tget (c.count b).freq x.toNat = if b = x then tget c.freq x.toNat + 1 else tget c.freq x.toNat := by
  have e : (c.count b).freq = tset c.freq b.toNat (tget c.freq b.toNat + 1) := by
    unfold Counter.count
    split <;> rfl
  rw [e, tget_tset_byte]
  split
  · subst_vars; rfl
  · rfl

@[simp] theorem Counter.count_iptr (c : Counter) (b : Byte) : (c.count b).iptr = c.iptr + 1 := by
  unfold Counter.count
  split <;> rfl

/-- What the scan holds after the bytes `m`: their number, their distinct symbols in first-occurrence order and their
counts, CR left out. -/
structure Counted (m : List Byte) (c : Counter) : Prop where
  no_term : Config.term ∉ m
  iptr_eq : c.iptr = m.length
  symbols_eq : c.symbols = Contract.firstOccurrences (Contract.filterCr m)
  freq_eq : ∀ x : Byte, tget c.freq x.toNat = (Contract.filterCr m).count x

/-- The table never fills up before the terminator (R7). -/
theorem Counted.k_le {m : List Byte} {c : Counter} (h : Counted m c) : c.k.toNat ≤ 254 := by
  rw [← c.length_symbols, h.symbols_eq]
  exact Contract.length_firstOccurrences_filterCr h.no_term

theorem Counted.skip_cr {m : List Byte} {c : Counter} (h : Counted m c) :
    Counted (m ++ [Config.cr]) { c with iptr := c.iptr + 1 } where
  no_term := by simp [h.no_term, Contract.term_ne_cr]
  iptr_eq := by simp [h.iptr_eq]
  symbols_eq := by rw [Contract.filterCr_concat, if_pos rfl]; exact h.symbols_eq
  freq_eq := by simpa [Contract.filterCr_concat] using h.freq_eq

theorem Counted.count {m : List Byte} {c : Counter} (h : Counted m c) {b : Byte} (hcr : b ≠ Config.cr)
    (hterm : b ≠ Config.term) : Counted (m ++ [b]) (c.count b) where
  no_term := by simp [h.no_term, hterm.symm]
  iptr_eq := by simp [h.iptr_eq]
  symbols_eq := by
    have hmem : tget c.freq b.toNat = 0 ↔ ¬ b ∈ Contract.firstOccurrences (Contract.filterCr m) := by
      rw [h.freq_eq, List.count_eq_zero, Contract.mem_firstOccurrences]
    rw [Contract.filterCr_concat, if_neg hcr, Contract.firstOccurrences_concat, Counter.count_symbols,
      Counter.symbols_addEntry b (Nat.lt_succ_of_le h.k_le), h.symbols_eq]
    simp only [hmem, ite_not]
  freq_eq x := by
    rw [Contract.filterCr_concat, if_neg hcr, Counter.count_freq, List.count_append, List.count_singleton, h.freq_eq]
    by_cases e : b = x <;> simp [e]

/-- The scan stops at the first byte 0 with the bytes before it counted, or counts the whole message (R111 to R113). -/
theorem freqScan_counted (bs : List Byte) {m : List Byte} {c : Counter} (h : Counted m c) :
    (∃ q c', q <+: bs ∧ Counted (m ++ q) c' ∧ freqScan bs c = (c', true)) ∨
    (∃ c', Counted (m ++ bs) c' ∧ freqScan bs c = (c', false)) := by
  induction bs generalizing m c with
  | nil => exact .inr ⟨c, by simpa using h, rfl⟩
  | cons b bs ih =>
    have onward {c' : Counter} (hc : Counted (m ++ [b]) c') (e : freqScan (b :: bs) c = freqScan bs c') :
        (∃ q c', q <+: b :: bs ∧ Counted (m ++ q) c' ∧ freqScan (b :: bs) c = (c', true)) ∨
        (∃ c', Counted (m ++ b :: bs) c' ∧ freqScan (b :: bs) c = (c', false)) := by
      rw [e]
      obtain ⟨q, d, hq, hd, hs⟩ | ⟨d, hd, hs⟩ := ih hc
      · obtain ⟨r, rfl⟩ := hq
        exact .inl ⟨b :: q, d, ⟨r, rfl⟩, by simpa using hd, hs⟩
      · exact .inr ⟨d, by simpa using hd, hs⟩
    by_cases hcr : b = Config.cr
    · subst hcr
      exact onward h.skip_cr (by rw [freqScan, if_pos rfl])
    · by_cases hterm : b = Config.term
      · exact .inl ⟨[], c, ⟨b :: bs, rfl⟩, by simpa using h, by rw [freqScan, if_neg hcr, if_pos hterm]⟩
      · exact onward (h.count hcr hterm) (by rw [freqScan, if_neg hcr, if_neg hterm])

/-- The appended terminator makes the table that of the extended message (R115). -/
theorem Counted.symbols_addTerminator {m : List Byte} {c : Counter} (h : Counted m c) :
    c.addTerminator.symbols = Contract.firstOccurrences (Contract.extended m) := by
  have hterm : Config.term ∉ Contract.firstOccurrences (Contract.filterCr m) := by
    rw [Contract.mem_firstOccurrences]
    exact List.count_eq_zero.1 (Contract.count_term_filterCr h.no_term)
  rw [Contract.extended, Contract.firstOccurrences_concat, if_neg hterm, ← h.symbols_eq]
  exact Counter.symbols_addEntry Config.term (Nat.lt_succ_of_le h.k_le)

theorem Counted.freq_addTerminator {m : List Byte} {c : Counter} (h : Counted m c) (x : Byte) :
    tget c.addTerminator.freq x.toNat = (Contract.extended m).count x := by
  have e : tget c.addTerminator.freq x.toNat = if Config.term = x then 1 else tget c.freq x.toNat :=
    tget_tset_byte c.freq Config.term 1 x
  rw [e, Contract.extended, List.count_append, List.count_singleton, ← h.freq_eq]
  split
  · subst_vars
    simp [h.freq_eq, Contract.count_term_filterCr h.no_term]
  · rename_i hx
    simp [hx]

/-- FREQ from the tables INIT leaves (R110): the abort with some first bytes of the message counted, or the table of the
extended message. -/
theorem execFreq_cases {s : State} (hk : s.k = 0) (hf : ∀ x : Byte, tget s.freq x.toNat = 0) :
    (∃ q c, q <+: s.message ∧ Counted q c ∧
      execFreq s = .next ((s.withCounter c).raise .reservedByteInInput)) ∨
    (∃ c, Counted s.message c ∧ execFreq s = .next { s.withCounter c.addTerminator with phase := phBuild }) := by
  have h0 : Counted [] { s.counter with iptr := 0 } :=
    { no_term := List.not_mem_nil
      iptr_eq := rfl
      symbols_eq := by simp [Counter.symbols, State.counter, hk, Contract.firstOccurrences, Contract.filterCr]
      freq_eq := hf }
  obtain ⟨q, c, hq, hc, e⟩ | ⟨c, hc, e⟩ := freqScan_counted s.message h0
  · exact .inl ⟨q, c, hq, by simpa using hc, by rw [execFreq, e]⟩
  · exact .inr ⟨c, by simpa using hc, by rw [execFreq, e]⟩

end Sys2Proof.Machine

namespace Sys2Proof.Machine

open Sys2Proof

/-! ### BUILD's leaves (R121) -/

/-- Inserting an index above every member puts it last. -/
theorem pqInsert_of_above {i : NodeIx} {pq : List NodeIx} (h : ∀ j ∈ pq, j < i) : pqInsert i pq = pq ++ [i] := by
  induction pq with
  | nil => rfl
  | cons j js ih =>
    have hj : j < i := h j List.mem_cons_self
    have h1 : ¬ i < j := by bv_omega
    have h2 : ¬ i = j := by bv_omega
    rw [pqInsert, if_neg h1, if_neg h2, ih fun x hx => h x (List.mem_cons_of_mem j hx)]
    rfl

/-- A new index joins the members. -/
theorem pqInsert_perm {i : NodeIx} {pq : List NodeIx} (h : i ∉ pq) : (pqInsert i pq).Perm (i :: pq) := by
  induction pq with
  | nil => exact List.Perm.refl _
  | cons j js ih =>
    obtain ⟨hj, hjs⟩ := not_or.1 (List.mem_cons.not.1 h)
    unfold pqInsert
    split
    · exact List.Perm.refl _
    · exact ((ih hjs).cons j).trans (List.Perm.swap i j js)

/-- A leaf over an old entry of NODE: the four fields R121 writes. -/
def leafNode (freq : Vector Nat 256) (e : Entry) (old : Node) : Node :=
  { old with leaf := true, sym := e.sym, weight := tget freq e.sym.toNat, minsym := e.sym }

/-- The first `n` leaves. -/
def addLeaves (freq : Vector Nat 256) (ent : Vector Entry 255) (b : Builder) (n : Nat) : Builder :=
  (List.range n).foldl (addLeaf freq ent) b

theorem addLeaves_succ (freq : Vector Nat 256) (ent : Vector Entry 255) (b : Builder) (n : Nat) :
    addLeaves freq ent b (n + 1) = addLeaf freq ent (addLeaves freq ent b n) n := by
  simp [addLeaves, List.range_succ]

theorem addLeaves_pq (freq : Vector Nat 256) (ent : Vector Entry 255) (node : Vector Node 509) (nn : NodeIx) {n : Nat}
    (h : n ≤ 512) : (addLeaves freq ent ⟨node, [], nn⟩ n).pq = (List.range n).map (BitVec.ofNat 9) := by
  induction n with
  | zero => rfl
  | succ n ih =>
    rw [addLeaves_succ, List.range_succ, List.map_append, ← ih (by omega)]
    refine pqInsert_of_above fun j hj => ?_
    rw [ih (by omega)] at hj
    obtain ⟨m, hm, rfl⟩ := List.mem_map.1 hj
    have := List.mem_range.1 hm
    bv_omega

theorem addLeaves_node (freq : Vector Nat 256) (ent : Vector Entry 255) (b : Builder) {n : Nat} (h : n ≤ 509)
    (i : Nat) : tget (addLeaves freq ent b n).node i =
      if i < n then leafNode freq (tget ent i) (tget b.node i) else tget b.node i := by
  induction n with
  | zero => simp [addLeaves]
  | succ n ih =>
    have e : (addLeaf freq ent (addLeaves freq ent b n) n).node =
        tset (addLeaves freq ent b n).node n
          (leafNode freq (tget ent n) (tget (addLeaves freq ent b n).node n)) := rfl
    rw [addLeaves_succ, e, tget_tset]
    by_cases hi : n = i
    · subst hi
      rw [if_pos ⟨rfl, by omega⟩, ih (by omega)]
      simp
    · rw [if_neg (fun hc => hi hc.1), ih (by omega)]
      have : i < n + 1 ↔ i < n := by omega
      simp [this]

/-! ### BUILD's merges -/

/-- The weights of the members of PQ together. -/
def Builder.total (b : Builder) : Nat := (b.pq.map (fun i => (tget b.node i.toNat).weight)).sum

/-- What every merge finds: PQ in order and below NN, with every weight, and those of PQ together, less than `w`. -/
structure Builder.Below (w : Nat) (b : Builder) : Prop where
  rising : b.pq.Pairwise (fun i j => i < j)
  below_nn : ∀ i ∈ b.pq, i < b.nn
  total_lt : b.total < w
  weight_lt : ∀ i, (tget b.node i).weight < w

theorem nodup_of_rising {pq : List NodeIx} (h : pq.Pairwise (fun i j => i < j)) : pq.Nodup :=
  h.imp fun hij => BitVec.ne_of_lt hij

/-- A merge takes two members out and adds their parent, or does nothing (R121). -/
theorem merge_cases (b : Builder) :
    merge b = b ∨ ∃ x y rest, b.pq.Perm (x :: y :: rest) ∧ rest.Sublist b.pq ∧ merge b = addInternal b x y rest := by
  unfold merge
  split
  · exact .inl rfl
  · rename_i x pq hx
    obtain ⟨hxm, rfl⟩ := popMin_some hx
    split
    · exact .inl rfl
    · rename_i y rest hy
      obtain ⟨hym, rfl⟩ := popMin_some hy
      exact .inr ⟨x, y, _, (List.perm_cons_erase hxm).trans ((List.perm_cons_erase hym).cons x),
        List.erase_sublist.trans List.erase_sublist, rfl⟩

/-- The parent takes over the weight of the two members it replaces (R126). -/
theorem Builder.Below.addInternal {w : Nat} {b : Builder} (h : b.Below w) {x y : NodeIx} {rest : List NodeIx}
    (hp : b.pq.Perm (x :: y :: rest)) (hs : rest.Sublist b.pq) (hn : b.nn.toNat < 509) :
    (addInternal b x y rest).Below w := by
  have hrest : ∀ i ∈ rest, i < b.nn := fun i hi => h.below_nn i (hs.subset hi)
  have hnot : b.nn ∉ rest := fun hm => BitVec.lt_irrefl b.nn (hrest _ hm)
  have htotal : (tget b.node x.toNat).weight + ((tget b.node y.toNat).weight +
      (rest.map (fun i => (tget b.node i.toNat).weight)).sum) < w := by
    simpa [Builder.total, (hp.map _).sum_eq] using h.total_lt
  have hnode : ∀ i, (tget (Machine.addInternal b x y rest).node i).weight =
      if b.nn.toNat = i then (tget b.node x.toNat).weight + (tget b.node y.toNat).weight
      else (tget b.node i).weight := by
    intro i
    simp only [Machine.addInternal, tget_tset, hn, and_true]
    split <;> rfl
  refine ⟨pqInsert_rising (h.rising.sublist hs), fun i hi => ?_, ?_, fun i => ?_⟩
  · show i < b.nn + 1
    rcases mem_pqInsert.1 hi with rfl | hi
    · bv_omega
    · have := hrest i hi
      bv_omega
  · have hsame : ∀ i ∈ rest, (tget (Machine.addInternal b x y rest).node i.toNat).weight =
        (tget b.node i.toNat).weight := fun i hi => by
      have := hrest i hi
      rw [hnode, if_neg (by bv_omega)]
    have e : (Machine.addInternal b x y rest).pq = pqInsert b.nn rest := rfl
    rw [Builder.total, e, ((pqInsert_perm hnot).map _).sum_eq, List.map_cons, List.sum_cons, hnode, if_pos rfl,
      List.map_congr_left hsame]
    omega
  · rw [hnode]
    split
    · omega
    · exact h.weight_lt i

theorem Builder.Below.merge {w : Nat} {b : Builder} (h : b.Below w) (hn : b.nn.toNat < 509) :
    (merge b).Below w ∧ (merge b).nn.toNat ≤ b.nn.toNat + 1 := by
  obtain e | ⟨x, y, rest, hp, hs, e⟩ := merge_cases b
  · rw [e]; exact ⟨h, by omega⟩
  · rw [e]
    refine ⟨h.addInternal hp hs hn, ?_⟩
    show (b.nn + 1).toNat ≤ b.nn.toNat + 1
    bv_omega

theorem Builder.Below.mergeTimes {w n : Nat} {b : Builder} (h : b.Below w) (hn : b.nn.toNat + n ≤ 509) :
    (mergeTimes n b).Below w := by
  induction n generalizing b with
  | zero => exact h
  | succ n ih =>
    obtain ⟨hm, hk⟩ := h.merge (by omega)
    exact ih hm (by omega)

/-- The leaves with `NN = K` (R121): the members of PQ weigh together what the entries' counts add up to. -/
theorem below_leaves {s : State} {w : Nat} (hfreq : ∀ x : Byte, tget s.freq x.toNat < w)
    (hnode : ∀ i, (tget s.node i).weight < w) (hsum : s.leafCounts.sum < w) :
    Builder.Below w { addLeaves s.freq s.ent ⟨s.node, [], s.nn⟩ s.k.toNat with nn := s.k.setWidth 9 } := by
  have hk : s.k.toNat < 256 := s.k.isLt
  have hpq := addLeaves_pq s.freq s.ent s.node s.nn (n := s.k.toNat) (by omega)
  have hleaf := addLeaves_node s.freq s.ent ⟨s.node, [], s.nn⟩ (n := s.k.toNat) (by omega)
  refine ⟨?_, fun i hi => ?_, ?_, fun i => ?_⟩
  · show (addLeaves s.freq s.ent ⟨s.node, [], s.nn⟩ s.k.toNat).pq.Pairwise _
    rw [hpq, List.pairwise_map]
    refine List.pairwise_lt_range.imp_of_mem fun ha hb hab => ?_
    have := List.mem_range.1 ha
    have := List.mem_range.1 hb
    bv_omega
  · change i ∈ (addLeaves s.freq s.ent ⟨s.node, [], s.nn⟩ s.k.toNat).pq at hi
    rw [hpq] at hi
    obtain ⟨m, hm, rfl⟩ := List.mem_map.1 hi
    have := List.mem_range.1 hm
    show BitVec.ofNat 9 m < s.k.setWidth 9
    bv_omega
  · have e : ∀ j ∈ List.range s.k.toNat,
        (tget (addLeaves s.freq s.ent ⟨s.node, [], s.nn⟩ s.k.toNat).node (BitVec.ofNat 9 j).toNat).weight =
          tget s.freq (tget s.ent j).sym.toNat := fun j hj => by
      have hj := List.mem_range.1 hj
      have hm : (BitVec.ofNat 9 j).toNat = j := by bv_omega
      rw [hm, hleaf, if_pos hj]
      rfl
    have ht : Builder.total { addLeaves s.freq s.ent ⟨s.node, [], s.nn⟩ s.k.toNat with nn := s.k.setWidth 9 } =
        s.leafCounts.sum := by
      simp only [Builder.total, hpq, State.leafCounts, State.entries, List.map_map]
      exact congrArg List.sum (List.map_congr_left e)
    exact ht ▸ hsum
  · rw [hleaf]
    split
    · exact hfreq _
    · exact hnode i

/-- BUILD keeps every node weight below a bound on the counts, the old weights and the sum of the leaf counts (R126). -/
theorem weight_buildTree_lt {s : State} {w : Nat} (hfreq : ∀ x : Byte, tget s.freq x.toNat < w)
    (hnode : ∀ i, (tget s.node i).weight < w) (hsum : s.leafCounts.sum < w) (i : Nat) :
    (tget s.buildTree.node i).weight < w := by
  have hk : s.k.toNat < 256 := s.k.isLt
  refine ((below_leaves hfreq hnode hsum).mergeTimes (n := s.k.toNat - 1) ?_).weight_lt i
  show (s.k.setWidth 9).toNat + (s.k.toNat - 1) ≤ 509
  rw [BitVec.toNat_setWidth]
  omega

/-- BUILD writes the arena, ROOT and PHASE, and may draw a free value for ROOT (R121). -/
theorem execBuild_eq (s : State) :
    ∃ r d, execBuild s = .next { s.withBuilder s.buildTree with root := r, draws := d, phase := phDepth } := by
  unfold execBuild
  dsimp only
  split
  · exact ⟨_, s.draws, rfl⟩
  · exact ⟨_, _, rfl⟩

/-! ### DEPTH leaves the weights (R136) -/

@[simp] theorem weight_setDepth (node : Vector Node 509) (i : NodeIx) (d : Byte) (j : Nat) :
    (tget (setDepth node i d) j).weight = (tget node j).weight := by
  rw [setDepth, tget_tset]
  split
  · rename_i h
    rw [← h.1]
  · rfl

@[simp] theorem weight_depths (s : State) (i : Nat) : (tget s.depths i).weight = (tget s.node i).weight := by
  have h : ∀ (is : List Nat) (node : Vector Node 509),
      (tget (is.foldl pushDepth node) i).weight = (tget node i).weight := by
    intro is
    induction is with
    | nil => intro node; rfl
    | cons j is ih => intro node; simp [ih, pushDepth]
  simp [State.depths, h]

end Sys2Proof.Machine

namespace Sys2Proof.Machine

open Sys2Proof

/-! ### OBUF is written at consecutive addresses (R75) -/

/-- `WritesUp m a m' a'`: writing bytes at `a`, `a + 1` and so on, one at each address below `a'`, leads from `m` to
`m'`. -/
inductive WritesUp (m : Memory) (a : Nat) : Memory → Nat → Prop where
  | refl : WritesUp m a m a
  | write {m' : Memory} {a' : Nat} (v : Byte) (h : WritesUp m a m' a') : WritesUp m a (Memory.write m' a' v) (a' + 1)

namespace WritesUp

variable {m m' m'' : Memory} {a a' a'' : Nat}

theorem trans (h : WritesUp m a m' a') (g : WritesUp m' a' m'' a'') : WritesUp m a m'' a'' := by
  induction g with
  | refl => exact h
  | write v _ ih => exact ih.write v

theorem le (h : WritesUp m a m' a') : a ≤ a' := by
  induction h with
  | refl => exact Nat.le_refl a
  | write _ _ ih => omega

/-- Every new cell lies below the address reached. -/
theorem lt_of_mem {n : Nat} (h : WritesUp m a m' a') (hm : ∀ c ∈ m, c.1 < n) (hn : a' ≤ n) : ∀ c ∈ m', c.1 < n := by
  induction h with
  | refl => exact hm
  | write v _ ih => exact Memory.write_bounded (ih (by omega)) (by omega)

end WritesUp

/-! ### The bit packer's output (R171) -/

/-- From one packer to another: at most `n` bits put, the whole bytes among them out at consecutive addresses. -/
structure Packer.Puts (n : Nat) (p q : Packer) : Prop where
  writes : WritesUp p.obuf p.optr q.obuf q.optr
  bits_le : 8 * q.optr + q.nbits.toNat ≤ 8 * p.optr + p.nbits.toNat + n

theorem Packer.Puts.trans {m n : Nat} {p q r : Packer} (h : p.Puts m q) (g : q.Puts n r) : p.Puts (m + n) r :=
  ⟨h.writes.trans g.writes, by have := h.bits_le; have := g.bits_le; omega⟩

theorem Packer.Puts.mono {m n : Nat} {p q : Packer} (h : p.Puts m q) (hmn : m ≤ n) : p.Puts n q :=
  ⟨h.writes, by have := h.bits_le; omega⟩

theorem putBit_puts (b : Bool) (p : Packer) : p.Puts 1 (putBit b p) := by
  obtain ⟨h7, e⟩ | ⟨h7, e⟩ := putBit_cases b p
  · rw [e]
    refine ⟨.write _ .refl, ?_⟩
    show 8 * (p.optr + 1) + 0 ≤ 8 * p.optr + p.nbits.toNat + 1
    rw [h7]
    exact Nat.le_refl _
  · have hn : (p.nbits + 1).toNat = p.nbits.toNat + 1 := by bv_omega
    rw [e]
    exact ⟨.refl, by simp only [hn]; omega⟩

theorem putBits_puts (c : Code) (n : Nat) (p : Packer) : p.Puts n (putBits c n p) := by
  induction n generalizing p with
  | zero => exact ⟨.refl, Nat.le_refl _⟩
  | succ n ih => exact ((putBit_puts _ p).trans (ih _)).mono (by omega)

/-- A codeword has at most 255 bits (R38). -/
theorem putCode_puts {em : Vector MapEntry 256} {s : Byte} {p q : Packer} (h : putCode em s p = .ok q) :
    p.Puts 255 q := by
  unfold putCode at h
  dsimp only at h
  split at h
  · cases h
    exact (putBits_puts _ _ p).mono (Nat.le_of_lt_succ (tget em s.toNat).len.isLt)
  · cases h

/-- PACK's scan: a codeword for each byte at most, and the terminator's (R172). -/
theorem packScan_puts {em : Vector MapEntry 256} {bs : List Byte} {p q : Packer} (h : packScan em bs p = .ok q) :
    p.Puts (255 * (bs.length + 1)) q := by
  induction bs generalizing p with
  | nil => simpa using putCode_puts h
  | cons b bs ih =>
    rw [List.length_cons]
    unfold packScan at h
    split at h
    · exact (ih h).mono (by omega)
    · split at h
      · rename_i r hr
        exact ((putCode_puts hr).trans (ih h)).mono (by omega)
      · cases h

/-- Padding writes the last byte if one is begun (R173). -/
theorem pad_writes (p : Packer) : WritesUp p.obuf p.optr (pad p).obuf (pad p).optr ∧ (pad p).optr ≤ p.optr + 1 := by
  unfold pad
  split
  · exact ⟨.refl, by omega⟩
  · exact ⟨.write _ .refl, Nat.le_refl _⟩

/-! ### The bit unpacker's output (R182) -/

/-- The registers UNPACK has reached, stopped or not. -/
def Unpacked.unpacker : Unpacked → Unpacker
  | .more u => u
  | .stopped u => u

/-- From one unpacker to another: at most `n` symbols out, at consecutive addresses. -/
structure Unpacker.Emits (n : Nat) (u v : Unpacker) : Prop where
  writes : WritesUp u.obuf u.optr v.obuf v.optr
  optr_le : v.optr ≤ u.optr + n

theorem Unpacker.Emits.trans {m n : Nat} {u v w : Unpacker} (h : u.Emits m v) (g : v.Emits n w) : u.Emits (m + n) w :=
  ⟨h.writes.trans g.writes, by have := h.optr_le; have := g.optr_le; omega⟩

theorem Unpacker.Emits.mono {m n : Nat} {u v : Unpacker} (h : u.Emits m v) (hmn : m ≤ n) : u.Emits n v :=
  ⟨h.writes, by have := h.optr_le; omega⟩

@[simp] theorem Unpacker.obuf_grow (u : Unpacker) (b : Bool) : (u.grow b).obuf = u.obuf := by
  unfold Unpacker.grow; split <;> rfl

@[simp] theorem Unpacker.optr_grow (u : Unpacker) (b : Bool) : (u.grow b).optr = u.optr := by
  unfold Unpacker.grow; split <;> rfl

@[simp] theorem Unpacker.iptr_grow (u : Unpacker) (b : Bool) : (u.grow b).iptr = u.iptr := by
  unfold Unpacker.grow; split <;> rfl

theorem Unpacker.emits_grow (u : Unpacker) (b : Bool) : u.Emits 0 (u.grow b) :=
  ⟨by rw [obuf_grow, optr_grow]; exact .refl, by simp⟩

theorem Unpacker.emits_emit (u : Unpacker) (s : Byte) : u.Emits 1 (u.emit s) := ⟨.write s .refl, Nat.le_refl _⟩

/-- A payload bit puts out one symbol at most and leaves IPTR. -/
theorem unpackBit_emits (rows : List CodeEntry) (b : Bool) (u : Unpacker) :
    u.Emits 1 (unpackBit rows b u).unpacker ∧ (unpackBit rows b u).unpacker.iptr = u.iptr := by
  obtain ⟨-, e⟩ | ⟨r, -, -, e⟩ | ⟨r, -, -, e⟩ := unpackBit_cases rows b u <;> rw [e]
  · exact ⟨(u.emits_grow b).mono (by omega), u.iptr_grow b⟩
  · exact ⟨((u.emits_grow b).trans (Unpacker.emits_emit _ r.sym)).mono (by omega), u.iptr_grow b⟩
  · exact ⟨(u.emits_grow b).mono (by omega), u.iptr_grow b⟩

theorem unpackBits_emits (rows : List CodeEntry) (byte : Byte) (n : Nat) (u : Unpacker) :
    u.Emits n (unpackBits rows byte n u).unpacker ∧ (unpackBits rows byte n u).unpacker.iptr = u.iptr := by
  induction n generalizing u with
  | zero => exact ⟨⟨.refl, Nat.le_refl _⟩, rfl⟩
  | succ n ih =>
    have hbit := unpackBit_emits rows (byte.getLsbD n) { u with bitpos := BitVec.ofNat 3 n }
    have start : u.Emits 0 { u with bitpos := BitVec.ofNat 3 n } := ⟨.refl, Nat.le_refl _⟩
    unfold unpackBits
    split
    · rename_i v hv
      rw [hv] at hbit
      obtain ⟨hone, hkeep⟩ := hbit
      obtain ⟨hmore, hrest⟩ := ih v
      exact ⟨((start.trans hone).trans hmore).mono (by omega), hrest.trans hkeep⟩
    · rename_i v hv
      rw [hv] at hbit
      obtain ⟨hone, hkeep⟩ := hbit
      exact ⟨(start.trans hone).mono (by omega), hkeep⟩

/-- UNPACK's scan: eight symbols for a payload byte at most. -/
theorem unpackScan_emits (rows : List CodeEntry) (bs : List Byte) (u : Unpacker) :
    u.Emits (8 * bs.length) (unpackScan rows bs u).unpacker := by
  induction bs generalizing u with
  | nil => exact ⟨.refl, Nat.le_refl _⟩
  | cons b bs ih =>
    obtain ⟨hbyte, -⟩ := unpackBits_emits rows b 8 u
    rw [List.length_cons]
    unfold unpackScan
    split
    · rename_i v hv
      rw [hv] at hbyte
      have next : v.Emits 0 { v with iptr := v.iptr + 1 } := ⟨.refl, Nat.le_refl _⟩
      exact ((hbyte.trans next).trans (ih _)).mono (by omega)
    · rename_i v hv
      rw [hv] at hbyte
      exact hbyte.mono (by omega)

/-- Where the bits run out, IPTR has passed every payload byte (R185). -/
theorem unpackScan_more_iptr {rows : List CodeEntry} {bs : List Byte} {u v : Unpacker}
    (h : unpackScan rows bs u = .more v) : v.iptr = u.iptr + bs.length := by
  induction bs generalizing u with
  | nil => cases h; rfl
  | cons b bs ih =>
    obtain ⟨-, hbyte⟩ := unpackBits_emits rows b 8 u
    unfold unpackScan at h
    split at h
    · rename_i w hw
      rw [hw] at hbyte
      have hw : w.iptr = u.iptr := hbyte
      rw [ih h, List.length_cons, ← hw]
      show w.iptr + 1 + bs.length = w.iptr + (bs.length + 1)
      omega
    · cases h

/-! ### The header's output (R156) -/

theorem writePair_writes (m : Memory) (j : Nat) (e : Entry) :
    WritesUp m (payloadAddr j) (writePair m j e) (payloadAddr (j + 1)) := by
  have hl : lenAddr j = symAddr j + 1 := by simp only [lenAddr, symAddr]; omega
  have hp : payloadAddr (j + 1) = symAddr j + 1 + 1 := by simp only [payloadAddr, symAddr]; omega
  rw [writePair, hl, hp]
  exact .write e.len (.write e.sym .refl)

/-- HDRW writes the addresses from 0 to the end of the header, each once. -/
theorem header_writes (m : Memory) (ent : Vector Entry 255) (k : Byte) (n : Nat) :
    WritesUp m 0 ((List.range n).foldl (fun m j => writePair m j (tget ent j)) (Memory.write m 0 k))
      (payloadAddr n) := by
  induction n with
  | zero => exact .write k .refl
  | succ n ih =>
    rw [List.range_succ, List.foldl_append]
    exact ih.trans (writePair_writes _ n _)

end Sys2Proof.Machine

namespace Sys2Proof.Machine

open Sys2Proof

/-! ### The widths as numbers (R8) -/

theorem two_pow_olenW (w : Nat) : 2 ^ Config.olenW w = 256 * 2 ^ w := by
  rw [olenW_eq, Nat.pow_add]
  omega

theorem two_pow_cntW (w : Nat) : 2 ^ Config.cntW w = 2 * 2 ^ w := by
  rw [cntW_eq, Nat.pow_succ]
  omega

theorem two_le_two_pow {w : Nat} (h : 0 < w) : 2 ≤ 2 ^ w := Nat.le_self_pow (Nat.ne_of_gt h) 2

/-- A whole header fits OBUF's address space for every positive LEN_W: 511 bytes are its most (R60, R67). -/
theorem payloadAddr_lt {w : Nat} (h : 0 < w) (k : Byte) : payloadAddr k.toNat < 2 ^ Config.olenW w := by
  have := two_le_two_pow h
  have := k.isLt
  rw [two_pow_olenW, payloadAddr]
  omega

theorem byte_lt_olenW (v : Byte) (w : Nat) : v.toNat < 2 ^ Config.olenW w := by
  have := v.isLt
  have := Nat.two_pow_pos w
  rw [two_pow_olenW]
  omega

/-- A number of LEN_W bits fits OLEN's width. -/
theorem lt_olenW_of_lt {w n : Nat} (h : n < 2 ^ w) : n < 2 ^ Config.olenW w := by
  rw [two_pow_olenW]
  omega

/-! ### Fits under the named operations -/

theorem weight_resetAt (w i : Nat) : (tget (State.resetAt w).node i).weight = 0 := by
  rw [State.node_resetAt]
  by_cases hi : i < 509
  · rw [tget_replicate hi]
  · simp only [tget, Vector.getElem?_eq_none (Nat.le_of_not_lt hi)]
    rfl

theorem fits_resetAt (w : Nat) : Fits (State.resetAt w) where
  ilen_lt := Nat.two_pow_pos _
  iptr_lt := Nat.two_pow_pos _
  olen_lt := Nat.two_pow_pos _
  optr_lt := Nat.two_pow_pos _
  port_lt := Nat.two_pow_pos _
  freq_lt x := by
    rw [State.freq_resetAt, tget_replicate x.isLt]
    exact Nat.two_pow_pos _
  weight_lt i := by
    rw [weight_resetAt]
    exact Nat.two_pow_pos _
  ibuf_lt _ hc := absurd hc List.not_mem_nil
  obuf_lt _ hc := absurd hc List.not_mem_nil
  counts_sum := by simp
  few_entries := by simp [State.inPhase]

section

variable {s t : State}

theorem Fits.accept (h : Fits s) (d : Dir) : Fits (s.accept d) :=
  { h with
    olen_lt := Nat.two_pow_pos _
    counts_sum := by simp
    few_entries := by simp [State.inPhase] }

theorem Fits.finish (h : Fits s) : Fits s.finish :=
  { h with
    olen_lt := h.optr_lt
    counts_sum := by simp
    few_entries := by simp [State.inPhase] }

theorem Fits.raise (h : Fits s) (e : ErrorKind) : Fits (s.raise e) :=
  { h with
    olen_lt := Nat.two_pow_pos _
    counts_sum := by simp
    few_entries := by simp [State.inPhase] }

theorem Fits.applyReset (h : Fits s) : Fits s.applyReset := { fits_resetAt s.lenW with port_lt := h.port_lt }

theorem Fits.answer (h : Fits s) {v : Nat} (hv : v < 2 ^ Config.olenW s.lenW) : Fits (s.answer v) :=
  { h with port_lt := hv }

theorem Fits.answerFree (h : Fits s) {w : Nat} (hw : w ≤ Config.olenW s.lenW) : Fits (s.answerFree w) :=
  { h with port_lt := Nat.lt_of_lt_of_le (BitVec.isLt _) (Nat.pow_le_pow_right (by omega) hw) }

/-- The bound on the entries from the phase the state is in. -/
theorem Fits.k_le {p : PhaseCode} (h : Fits s) (hp : s.phase = p)
    (hm : p ∈ [phBuild, phDepth, phSort, phAssign, phHdrw, phPack]) (hd : s.dir = .compress) :
    s.k.toNat ≤ s.ilen + 1 := by
  subst hp
  exact h.few_entries hm hd

/-- In a phase of the decoder nothing is asked of the entries. -/
theorem Inv.not_compress {p : PhaseCode} (h : Inv s) (hp : s.phase = p) (hm : p ∈ [phHdrr, phUnpack]) :
    s.dir ≠ .compress := by
  subst hp
  rw [h.decoder_dir hm]
  exact Dir.noConfusion

/-! ### Each instruction keeps the widths -/

theorem fits_init (h : Fits s) (he : execInit s = .next t) : Fits t := by
  cases he
  exact { h with
    iptr_lt := Nat.two_pow_pos _
    optr_lt := Nat.two_pow_pos _
    freq_lt := fun x => by
      rw [tget_replicate x.isLt]
      exact Nat.two_pow_pos _
    counts_sum := by dsimp only; split <;> simp
    few_entries := by dsimp only [State.inPhase]; split <;> simp }

/-- FREQ counts at most ILEN bytes and the terminator (R116). -/
theorem fits_freq (h : Fits s) (hc : Covered s) (hp : s.phase = phFreq) (he : execFreq s = .next t) : Fits t := by
  have hlen : s.message.length = s.ilen := by simp [State.message]
  have hilen := h.ilen_lt
  obtain ⟨hk, hfreq⟩ := hc.freq_clear hp
  obtain ⟨q, c, hq, hcount, e⟩ | ⟨c, hcount, e⟩ := execFreq_cases hk hfreq <;> (rw [e] at he; cases he)
  · have hql : q.length ≤ s.ilen := hlen ▸ hq.length_le
    have hmid : Fits (s.withCounter c) :=
      { h with
        iptr_lt := by
          show c.iptr < 2 ^ s.lenW
          rw [hcount.iptr_eq]
          omega
        freq_lt := fun x => by
          show tget c.freq x.toNat < 2 ^ Config.cntW s.lenW
          have := List.count_le_length (a := x) (l := Contract.filterCr q)
          have := Contract.length_filterCr_le q
          rw [hcount.freq_eq, two_pow_cntW]
          omega
        counts_sum := by simp [hp]
        few_entries := by simp [State.inPhase, hp] }
    exact hmid.raise _
  · have hext : (Contract.extended s.message).length ≤ s.ilen + 1 := hlen ▸ Contract.length_extended_le s.message
    exact
      { h with
        iptr_lt := by
          show c.iptr < 2 ^ s.lenW
          rw [hcount.iptr_eq]
          omega
        freq_lt := fun x => by
          show tget c.addTerminator.freq x.toNat < 2 ^ Config.cntW s.lenW
          have := List.count_le_length (a := x) (l := Contract.extended s.message)
          rw [hcount.freq_addTerminator, two_pow_cntW]
          omega
        counts_sum := fun _ => by
          have e : State.leafCounts { s.withCounter c.addTerminator with phase := phBuild } =
              c.addTerminator.symbols.map (fun b => tget c.addTerminator.freq b.toNat) := by
            simp [State.leafCounts, State.entries, Counter.symbols, State.withCounter]
          rw [e, List.map_congr_left fun b _ => hcount.freq_addTerminator b, hcount.symbols_addTerminator,
            Contract.sum_count_firstOccurrences]
          show _ ≤ 2 ^ s.lenW
          omega
        few_entries := fun _ _ => by
          show c.addTerminator.k.toNat ≤ s.ilen + 1
          have := Contract.length_firstOccurrences_le (Contract.extended s.message)
          rw [← Counter.length_symbols, hcount.symbols_addTerminator]
          omega }

theorem fits_build (h : Fits s) (hp : s.phase = phBuild) (he : execBuild s = .next t) : Fits t := by
  obtain ⟨r, d, e⟩ := execBuild_eq s
  rw [e] at he
  cases he
  have hsum : s.leafCounts.sum < 2 ^ Config.cntW s.lenW := by
    have := h.counts_sum hp
    have := Nat.two_pow_pos s.lenW
    rw [two_pow_cntW]
    omega
  exact { h with
    weight_lt := weight_buildTree_lt h.freq_lt h.weight_lt hsum
    counts_sum := by simp
    few_entries := fun _ => h.k_le hp (by decide) }

theorem fits_depth (h : Fits s) (hp : s.phase = phDepth) (he : execDepth s = .next t) : Fits t := by
  cases he
  exact { h with
    weight_lt := fun i => by
      rw [weight_depths]
      exact h.weight_lt i
    counts_sum := by simp
    few_entries := fun _ => h.k_le hp (by decide) }

theorem fits_sort (h : Fits s) (hp : s.phase = phSort) (he : execSort s = .next t) : Fits t := by
  cases he
  exact { h with
    counts_sum := by simp
    few_entries := fun _ => h.k_le hp (by decide) }

theorem fits_assign (h : Fits s) (hp : s.phase = phAssign) (he : execAssign s = .next t) : Fits t := by
  unfold execAssign at he
  dsimp only at he
  split at he <;> cases he
  · exact { h with
      counts_sum := by simp
      few_entries := fun _ => h.k_le hp (by decide) }
  · exact { h with
      counts_sum := by simp
      few_entries := by simp [State.inPhase] }

theorem fits_hdrw (hi : Inv s) (h : Fits s) (hp : s.phase = phHdrw) (he : execHdrw s = .next t) : Fits t := by
  cases he
  have hend := payloadAddr_lt hi.lenW_pos s.k
  exact { h with
    optr_lt := hend
    obuf_lt := (header_writes s.obuf s.ent s.k s.k.toNat).lt_of_mem h.obuf_lt (Nat.le_of_lt hend)
    counts_sum := by simp
    few_entries := fun _ => h.k_le hp (by decide) }

/-- PACK's output: the header, at most 255 bits for each of ILEN bytes and the terminator, and padding (R177). -/
theorem fits_pack (hi : Inv s) (h : Fits s) (hp : s.phase = phPack) (he : execPack s = .next t) : Fits t := by
  unfold execPack at he
  split at he
  · rename_i q hq
    cases he
    have hputs := packScan_puts hq
    obtain ⟨hpad, hpadle⟩ := pad_writes q
    have hstart : s.optr = 1 + 2 * s.k.toNat := hi.optr_pack hp
    have hk := h.k_le hp (by decide) (hi.encoder_dir (by simp [State.inPhase, hp]))
    obtain ⟨-, hnbits, -, -⟩ := hi.bits_fresh (by simp [State.inPhase, hp])
    have hlen : s.message.length = s.ilen := by simp [State.message]
    have hend : (pad q).optr < 2 ^ Config.olenW s.lenW := by
      have hbits : 8 * q.optr + q.nbits.toNat ≤ 8 * s.optr + s.nbits.toNat + 255 * (s.message.length + 1) :=
        hputs.bits_le
      have hz : s.nbits.toNat = 0 := by rw [hnbits]; rfl
      have := h.ilen_lt
      rw [two_pow_olenW]
      omega
    have hmid : Fits { s.withPacker (pad q) with iptr := s.ilen } :=
      { h with
        iptr_lt := h.ilen_lt
        optr_lt := hend
        obuf_lt := (hputs.writes.trans hpad).lt_of_mem h.obuf_lt (Nat.le_of_lt hend) }
    exact hmid.finish
  · cases he

theorem fits_hdrr (hi : Inv s) (h : Fits s) (hp : s.phase = phHdrr) (he : execHdrr s = .next t) : Fits t := by
  have hdir := hi.not_compress hp (by decide)
  unfold execHdrr at he
  split at he <;> cases he
  · exact h.raise _
  · have hload (k : Byte) : Fits { s with k := k } :=
      { h with
        counts_sum := by simp [hp]
        few_entries := fun _ d => absurd d hdir }
    obtain ⟨-, e⟩ | ⟨-, -, e⟩ | ⟨-, hle, e⟩ := withCount_cases (s.readIbuf 0) s (fun t =>
      { t with
        ent := (List.range t.k.toNat).foldl (readPair t) t.ent
        iptr := payloadAddr t.k.toNat
        phase := phSort }) <;> rw [e]
    · exact (hload _).raise _
    · exact (hload _).raise _
    · exact { h with
        iptr_lt := Nat.lt_of_le_of_lt hle h.ilen_lt
        counts_sum := by simp
        few_entries := fun _ d => absurd d hdir }

/-- UNPACK puts out at most one symbol for a payload bit, and there are fewer than 8 * 2^LEN_W of those (R191). -/
theorem fits_unpack (hi : Inv s) (h : Fits s) (hp : s.phase = phUnpack) (he : execUnpack s = .next t) : Fits t := by
  have hilen := h.ilen_lt
  have hiptr : s.iptr ≤ s.ilen := hi.iptr_le (by simp [State.inPhase, hp])
  have hstart : s.optr = 0 := hi.optr_zero (by simp [State.inPhase, hp])
  have hlen : (s.inputFrom s.iptr).length = s.ilen - s.iptr := s.length_inputFrom s.iptr
  have hemits := unpackScan_emits s.rows (s.inputFrom s.iptr) s.unpacker
  have hend : (unpackScan s.rows (s.inputFrom s.iptr) s.unpacker).unpacker.optr < 2 ^ Config.olenW s.lenW := by
    have hle : _ ≤ s.optr + 8 * (s.inputFrom s.iptr).length := hemits.optr_le
    rw [two_pow_olenW]
    omega
  have hobuf := hemits.writes.lt_of_mem h.obuf_lt (Nat.le_of_lt hend)
  unfold execUnpack at he
  split at he <;> rename_i v hv <;> cases he <;> rw [hv] at hend hobuf
  · have hmid : Fits { s.withUnpacker v with
        iptr := (Config.stoppedIptr s.lenW v.draws).toNat, draws := v.draws + 1 } :=
      { h with
        iptr_lt := BitVec.isLt _
        optr_lt := hend
        obuf_lt := hobuf }
    exact hmid.finish
  · have hpast : v.iptr = s.iptr + (s.inputFrom s.iptr).length := unpackScan_more_iptr hv
    have hmid : Fits (s.withUnpacker v) :=
      { h with
        iptr_lt := by
          show v.iptr < 2 ^ s.lenW
          omega
        optr_lt := hend
        obuf_lt := hobuf }
    exact hmid.raise _

/-- Where a field of HDRW leaves PHASE, the bound on the entries is asked and met. -/
theorem fits_hdrw_field (h : Fits s) (hp : s.phase = phHdrw) {m : Memory} {a n : Nat}
    (hw : WritesUp s.obuf n m a) (ha : a < 2 ^ Config.olenW s.lenW) :
    Fits { s with obuf := m, optr := a, phase := endOfHeader a s.k phHdrw phPack } :=
  { h with
    optr_lt := ha
    obuf_lt := hw.lt_of_mem h.obuf_lt (Nat.le_of_lt ha)
    counts_sum := by dsimp only [endOfHeader]; split <;> simp
    few_entries := fun _ => h.k_le hp (by decide) }

theorem fits_hdrK {k : Byte} (hi : Inv s) (h : Fits s) (hr : Runnable s (.hdrK k)) (he : execHdrK k s = .next t) :
    Fits t := by
  unfold execHdrK at he
  obtain ⟨hp, -, -, -⟩ | ⟨hp, -, -⟩ := hr
  · have hdir := hi.not_compress hp (by decide)
    have hload : Fits { s with k := k } :=
      { h with
        counts_sum := by simp [hp]
        few_entries := fun _ d => absurd d hdir }
    rw [if_pos hp] at he
    cases he
    obtain ⟨-, e⟩ | ⟨-, -, e⟩ | ⟨-, hle, e⟩ := withCount_cases k s (fun t => { t with iptr := 1 }) <;> rw [e]
    · exact hload.raise _
    · exact hload.raise _
    · exact { hload with
        iptr_lt := by
          have := h.ilen_lt
          rw [payloadAddr] at hle
          show 1 < 2 ^ s.lenW
          omega }
  · have hne : ¬ s.phase = phHdrr := by rw [hp]; decide
    rw [if_neg hne, if_pos hp] at he
    cases he
    exact fits_hdrw_field h hp (.write k .refl) (byte_lt_olenW 1 _)

theorem fits_hdrPair {sym len : Byte} (hi : Inv s) (h : Fits s) (hr : Runnable s (.hdrPair sym len))
    (he : execHdrPair sym len s = .next t) : Fits t := by
  unfold execHdrPair at he
  obtain ⟨hp, hne, -, -⟩ | ⟨hp, hne, -, -⟩ := hr
  · have hdir := hi.not_compress hp (by decide)
    have hilen := h.ilen_lt
    obtain ⟨hodd, hlt, hle⟩ := (hi.iptr_hdrr hp).resolve_left hne
    rw [payloadAddr] at hlt hle
    rw [if_pos hp] at he
    cases he
    exact { h with
      iptr_lt := by
        show s.iptr + 2 < 2 ^ s.lenW
        omega
      counts_sum := by dsimp only [endOfHeader]; split <;> simp
      few_entries := fun _ d => absurd d hdir }
  · have hnr : ¬ s.phase = phHdrr := by rw [hp]; decide
    obtain ⟨hodd, hlt⟩ := (hi.optr_hdrw hp).resolve_left hne
    have hend := payloadAddr_lt hi.lenW_pos s.k
    have hnext : s.optr + 2 = payloadAddr (pairAt s.optr + 1) := by
      rw [payloadAddr, pairAt]
      omega
    rw [payloadAddr] at hlt hend
    rw [if_neg hnr, if_pos hp] at he
    cases he
    exact fits_hdrw_field h hp (hnext ▸ writePair_writes s.obuf (pairAt s.optr) ⟨sym, len⟩) (by omega)

/-- Every instruction keeps the widths where a step can run it (R8). -/
theorem exec_fits {i : Instr} (hr : Runnable s i) (hi : Inv s) (hc : Covered s) (h : Fits s)
    (he : exec i s = .next t) : Fits t := by
  cases i with
  | compress =>
    change execCompress s = .next t at he
    unfold execCompress at he
    split at he <;> cases he
    · exact h
    · exact h.accept _
  | decompress =>
    change execDecompress s = .next t at he
    unfold execDecompress at he
    split at he <;> cases he
    · exact h
    · exact h.accept _
  | idle => cases he; exact h
  | init => exact fits_init h he
  | freq => exact fits_freq h hc hr he
  | build => exact fits_build h hr he
  | depth => exact fits_depth h hr he
  | sort => exact fits_sort h hr he
  | assign => exact fits_assign h hr he
  | hdrw => exact fits_hdrw hi h hr he
  | pack => exact fits_pack hi h hr he
  | hdrr => exact fits_hdrr hi h hr he
  | unpack => exact fits_unpack hi h hr he
  | hdrK k => exact fits_hdrK hi h hr he
  | hdrPair sym len => exact fits_hdrPair hi h hr he

/-! ### Each host access keeps the widths -/

theorem fits_hostReadObuf (h : Fits s) (a : Nat) : Fits (s.hostReadObuf a) := by
  have hfree : Fits (s.answerFree 8) := h.answerFree (by rw [olenW_eq]; omega)
  unfold State.hostReadObuf
  split
  · exact hfree
  · split
    · exact h.answer (byte_lt_olenW _ _)
    · exact hfree

/-- A host write changes a register or a buffer only within its width, and a read returns a number of a width (R60). -/
theorem hostAccess_fits (hi : Inv s) (h : Fits s) (e : Event) : Fits (hostAccess e s) := by
  cases hfit : e.fits s.lenW with
  | false => rw [hostAccess_of_not_fits hfit]; exact h
  | true =>
    rw [hostAccess_of_fits hfit]
    cases e with
    | core => exact h
    | field => exact h
    | writeCmd v => exact h
    | writeStatus v => exact h
    | writeOlen v => exact h
    | readCmd => exact h.answer (Nat.two_pow_pos _)
    | readStatus => exact h.answer (byte_lt_olenW _ _)
    | readIlen => exact h.answer (lt_olenW_of_lt h.ilen_lt)
    | readIbuf a => exact h.answer (byte_lt_olenW _ _)
    | readObuf a => exact fits_hostReadObuf h a
    | reset => exact h.applyReset
    | readOlen =>
      unfold doAccess
      dsimp only
      split
      · exact h.answerFree (Nat.le_refl _)
      · exact h.answer h.olen_lt
    | writeIlen v =>
      unfold doAccess
      dsimp only
      split
      · exact h
      · rename_i hb
        have hidle : s.phase = phIdle := not_not.1 (hi.busy_iff.not.1 hb)
        exact { h with
          ilen_lt := of_decide_eq_true hfit
          few_entries := by simp [State.inPhase, hidle] }
    | writeIbuf a v =>
      unfold doAccess
      dsimp only
      split
      · exact h
      · exact { h with ibuf_lt := Memory.write_bounded h.ibuf_lt (of_decide_eq_true hfit) }

end

/-- Settles O52: by cases on what a step can do, each instruction and each host access keeps the widths. -/
theorem stepKeepsWidths : Obligations.StepKeepsWidths := by
  intro s t h
  refine ⟨lenW_step h, fun hi hc hf => ?_⟩
  obtain ⟨i, hr, he⟩ | ⟨e, -, rfl⟩ := step_cases h
  · exact exec_fits hr (hi.of_sched _) (hc.of_sched _) (hf.of_sched _) he
  · exact hostAccess_fits (hi.of_sched _) (hf.of_sched _) e

/-! ### The invariants after reset -/

theorem inv_resetAt {w : Nat} (hw : 0 < w) : Inv (State.resetAt w) where
  lenW_pos := hw
  ibuf_wf := List.Pairwise.nil
  obuf_wf := List.Pairwise.nil
  phase_assigned := Nat.zero_le _
  busy_iff := by simp [State.busy]
  olen_zero _ := rfl
  queue_rising := List.Pairwise.nil
  encoder_dir _ := rfl
  decoder_dir := by simp [State.inPhase]
  bits_fresh _ := ⟨rfl, rfl, rfl, rfl⟩
  optr_zero _ := rfl
  optr_hdrw := by simp
  optr_pack := by simp
  iptr_le _ := Nat.le_refl 0
  iptr_hdrr := by simp
  iptr_payload := by simp [State.inPhase]

theorem covered_resetAt (w : Nat) : Covered (State.resetAt w) where
  freq_clear := by simp
  has_entries := by simp [State.inPhase]
  in_entries := by simp [State.inPhase]
  in_rows := by simp
  in_map := by simp [State.inPhase]

/-- Settles O41: after reset PHASE is IDLE, every cursor 0 and every buffer empty. -/
theorem invHoldsAtReset : Obligations.InvHoldsAtReset :=
  ⟨rfl, rfl, fun w hw => ⟨inv_resetAt hw, covered_resetAt w, fits_resetAt w⟩⟩

/-! ### An access the port cannot carry -/

/-- Such an access is taken off the list and has no effect (R8, R60). -/
theorem hostAccess_beyond {s : State} {e : Event} (es : List Event) (h : e.fits s.lenW = false) :
    hostAccess e { s with sched := es } = { s with sched := es } := hostAccess_of_not_fits h

/-- Settles O49: none of these events fits the port, so the step takes it off the list alone. -/
theorem accessBeyondTheWidthsDoesNothing : Obligations.AccessBeyondTheWidthsDoesNothing := by
  intro s es n b
  have beyond {m : Nat} (h : m ≤ n) : decide (n < m) = false := decide_eq_false (Nat.not_lt.2 h)
  refine ⟨fun h => ⟨?_, ?_, ?_⟩, fun h => ?_⟩
  · exact congrArg Host.Outcome.next (hostAccess_beyond (e := .writeIlen n) es (beyond h))
  · exact congrArg Host.Outcome.next (hostAccess_beyond (e := .writeIbuf n b) es (beyond h))
  · exact congrArg Host.Outcome.next (hostAccess_beyond (e := .readIbuf n) es (beyond h))
  · exact congrArg Host.Outcome.next (hostAccess_beyond (e := .readObuf n) es (beyond h))

end Sys2Proof.Machine

namespace Sys2Proof.Machine

open Sys2Proof

/-! ### The invariant by phase -/

section

variable {s : State}

/-- The clauses of `Inv` that hold in every phase alike. -/
structure WellShaped (s : State) : Prop where
  lenW_pos : 0 < s.lenW
  ibuf_wf : Memory.wf s.ibuf
  obuf_wf : Memory.wf s.obuf
  queue_rising : s.pq.Pairwise (fun i j => i < j)

/-- The clauses that hold alike in every phase after INIT (R25, R28, R39, R110). -/
structure AfterInit (s : State) : Prop extends WellShaped s where
  busy : s.busy
  olen_eq : s.olen = 0
  bits_fresh : s.acc = 0 ∧ s.nbits = 0 ∧ s.cand = 0 ∧ s.candlen = 0
  iptr_le : s.iptr ≤ s.ilen

/-- DIR and the cursors in each phase after INIT (R39, R155, R160, R180, R198). -/
inductive Placed (s : State) : Prop where
  | modeling (hp : s.phase = phFreq ∨ s.phase = phBuild ∨ s.phase = phDepth) (hd : s.dir = .compress) (ho : s.optr = 0)
  | coding (hp : s.phase = phSort ∨ s.phase = phAssign) (ho : s.optr = 0)
      (hi : s.dir = .decompress → s.iptr = payloadAddr s.k.toNat)
  | hdrw (hp : s.phase = phHdrw) (hd : s.dir = .compress)
      (ho : s.optr = 0 ∨ (s.optr % 2 = 1 ∧ s.optr < payloadAddr s.k.toNat))
  | pack (hp : s.phase = phPack) (hd : s.dir = .compress) (ho : s.optr = payloadAddr s.k.toNat)
  | hdrr (hp : s.phase = phHdrr) (hd : s.dir = .decompress) (ho : s.optr = 0)
      (hi : s.iptr = 0 ∨ (s.iptr % 2 = 1 ∧ s.iptr < payloadAddr s.k.toNat ∧ payloadAddr s.k.toNat ≤ s.ilen))
  | unpack (hp : s.phase = phUnpack) (hd : s.dir = .decompress) (ho : s.optr = 0)
      (hi : s.iptr = payloadAddr s.k.toNat)

theorem Inv.wellShaped (h : Inv s) : WellShaped s := ⟨h.lenW_pos, h.ibuf_wf, h.obuf_wf, h.queue_rising⟩

/-- Where PHASE is not IDLE a command runs, and OLEN is 0 (R25, R28). -/
theorem Inv.running (h : Inv s) (hp : s.phase ≠ phIdle) : s.busy ∧ s.olen = 0 := by
  have hb : s.busy := h.busy_iff.2 hp
  exact ⟨hb, h.olen_zero (by rw [hb]; exact Status.noConfusion)⟩

theorem Inv.afterInit {p : PhaseCode} (h : Inv s) (hp : s.phase = p) (hne : p ∉ [phIdle, phInit]) : AfterInit s := by
  subst hp
  obtain ⟨hb, ho⟩ := h.running fun e => hne (e ▸ List.mem_cons_self)
  exact { h.wellShaped with busy := hb, olen_eq := ho, bits_fresh := h.bits_fresh hne, iptr_le := h.iptr_le hne }

/-- In IDLE and INIT nothing is asked of the cursors and DIR. -/
theorem WellShaped.inv (h : WellShaped s) (hp : s.inPhase [phIdle, phInit]) (hb : s.busy ↔ s.phase ≠ phIdle)
    (ho : s.status ≠ .done none → s.olen = 0) : Inv s := by
  have e : s.phase = phIdle ∨ s.phase = phInit := by simpa [State.inPhase] using hp
  rcases e with e | e <;> exact
    { h with
      phase_assigned := by simp [e]
      busy_iff := hb
      olen_zero := ho
      encoder_dir := by simp [State.inPhase, e]
      decoder_dir := by simp [State.inPhase, e]
      bits_fresh := absurd hp
      optr_zero := by simp [State.inPhase, e]
      optr_hdrw := by simp [e]
      optr_pack := by simp [e]
      iptr_le := absurd hp
      iptr_hdrr := by simp [e]
      iptr_payload := by simp [State.inPhase, e] }

/-- After INIT the invariant is what holds in every phase and what `Placed` says of this one. -/
theorem AfterInit.inv (h : AfterInit s) (hp : Placed s) : Inv s := by
  rcases hp with ⟨e | e | e, hd, ho⟩ | ⟨e | e, ho, hi⟩ | ⟨e, hd, ho⟩ | ⟨e, hd, ho⟩ | ⟨e, hd, ho, hi⟩ |
    ⟨e, hd, ho, hi⟩ <;> exact
    { h with
      phase_assigned := by simp [e]
      busy_iff := iff_of_true h.busy (by simp [e])
      olen_zero := fun _ => h.olen_eq
      encoder_dir := by simp [State.inPhase, *]
      decoder_dir := by simp [State.inPhase, *]
      bits_fresh := fun _ => h.bits_fresh
      optr_zero := by simp [State.inPhase, *]
      optr_hdrw := by simp [*]
      optr_pack := by simp [*]
      iptr_le := fun _ => h.iptr_le
      iptr_hdrr := by simp [*]
      iptr_payload := fun hm hd => by simp_all [State.inPhase] }

end

end Sys2Proof.Machine

namespace Sys2Proof.Machine

open Sys2Proof

/-! ### What the phases' loops leave -/

/-- Every byte written keeps the canonical form. -/
theorem WritesUp.wf {m m' : Memory} {a a' : Nat} (h : WritesUp m a m' a') (hm : Memory.wf m) : Memory.wf m' := by
  induction h with
  | refl => exact hm
  | write v _ ih => exact Memory.write_wf _ v ih

/-- Where no byte 0 stops FREQ's scan, IPTR has passed the whole message (R111). -/
theorem freqScan_false_iptr {bs : List Byte} {c c' : Counter} (h : freqScan bs c = (c', false)) :
    c'.iptr = c.iptr + bs.length := by
  induction bs generalizing c with
  | nil => cases h; rfl
  | cons b bs ih =>
    unfold freqScan at h
    rw [List.length_cons]
    split at h
    · have : c'.iptr = c.iptr + 1 + bs.length := ih h
      omega
    · split at h
      · cases h
      · rw [ih h, Counter.count_iptr]
        omega

theorem merge_rising {b : Builder} (h : b.pq.Pairwise (fun i j => i < j)) :
    (merge b).pq.Pairwise (fun i j => i < j) := by
  obtain e | ⟨x, y, rest, -, hs, e⟩ := merge_cases b <;> rw [e]
  · exact h
  · exact pqInsert_rising (h.sublist hs)

theorem mergeTimes_rising {b : Builder} (n : Nat) (h : b.pq.Pairwise (fun i j => i < j)) :
    (mergeTimes n b).pq.Pairwise (fun i j => i < j) := by
  induction n generalizing b with
  | zero => exact h
  | succ n ih => exact ih (merge_rising h)

/-- BUILD leaves PQ a set listed rising, whatever it started from (R34, R121). -/
theorem buildTree_rising (s : State) : s.buildTree.pq.Pairwise (fun i j => i < j) := by
  refine mergeTimes_rising _ ?_
  show (addLeaves s.freq s.ent ⟨s.node, [], s.nn⟩ s.k.toNat).pq.Pairwise _
  induction s.k.toNat with
  | zero => exact List.Pairwise.nil
  | succ n ih =>
    rw [addLeaves_succ]
    exact pqInsert_rising ih

theorem Dir.eq_decompress {d : Dir} (h : d ≠ .compress) : d = .decompress := by
  cases d with
  | compress => exact absurd rfl h
  | decompress => rfl

section

variable {s t : State}

/-! ### Each named operation leaves the invariant -/

theorem WellShaped.accept (h : WellShaped s) (d : Dir) : Inv (s.accept d) :=
  WellShaped.inv { h with } (by simp [State.inPhase]) (iff_of_true rfl (by simp)) (fun _ => rfl)

theorem WellShaped.finish (h : WellShaped s) : Inv s.finish :=
  WellShaped.inv { h with } (by simp [State.inPhase]) (by simp) (by simp)

theorem WellShaped.raise (h : WellShaped s) (e : ErrorKind) : Inv (s.raise e) :=
  WellShaped.inv { h with } (by simp [State.inPhase]) (by simp) (by simp)

/-- The tests of the count byte abort, or leave the rest to show (R160, R165). -/
theorem WellShaped.withCount {k : Byte} {go : State → State} (h : WellShaped s)
    (hgo : k ≠ 0 → payloadAddr k.toNat ≤ s.ilen → Inv (go { s with k := k })) : Inv (withCount k s go) := by
  have hload : WellShaped { s with k := k } := { h with }
  obtain ⟨-, e⟩ | ⟨-, -, e⟩ | ⟨hk, hle, e⟩ := withCount_cases k s go <;> rw [e]
  · exact hload.raise _
  · exact hload.raise _
  · exact hgo hk hle

/-! ### Each instruction keeps the invariant -/

theorem inv_init (h : Inv s) (hp : s.phase = phInit) (he : execInit s = .next t) : Inv t := by
  cases he
  obtain ⟨hb, ho⟩ := h.running (by simp [hp])
  refine AfterInit.inv
    { h.wellShaped with
      queue_rising := List.Pairwise.nil
      busy := hb
      olen_eq := ho
      bits_fresh := ⟨rfl, rfl, rfl, rfl⟩
      iptr_le := Nat.zero_le _ } ?_
  by_cases hd : s.dir = .compress
  · exact .modeling (.inl (if_pos hd)) hd rfl
  · exact .hdrr (if_neg hd) (Dir.eq_decompress hd) rfl (.inl rfl)

theorem inv_freq (h : Inv s) (hp : s.phase = phFreq) (he : execFreq s = .next t) : Inv t := by
  have hdir : s.dir = .compress := h.encoder_dir (by simp [State.inPhase, hp])
  have hoptr : s.optr = 0 := h.optr_zero (by simp [State.inPhase, hp])
  unfold execFreq at he
  split at he <;> cases he
  · rename_i c _
    have hmid : WellShaped (s.withCounter c) := { h.wellShaped with }
    exact hmid.raise _
  · rename_i c hc
    have hiptr : c.iptr = s.ilen := by simpa [State.message] using freqScan_false_iptr hc
    exact AfterInit.inv { h.afterInit hp (by decide) with iptr_le := Nat.le_of_eq hiptr }
      (.modeling (by simp) hdir hoptr)

theorem inv_build (h : Inv s) (hp : s.phase = phBuild) (he : execBuild s = .next t) : Inv t := by
  have hdir : s.dir = .compress := h.encoder_dir (by simp [State.inPhase, hp])
  have hoptr : s.optr = 0 := h.optr_zero (by simp [State.inPhase, hp])
  obtain ⟨r, d, e⟩ := execBuild_eq s
  rw [e] at he
  cases he
  exact AfterInit.inv { h.afterInit hp (by decide) with queue_rising := buildTree_rising s }
    (.modeling (by simp) hdir hoptr)

theorem inv_depth (h : Inv s) (hp : s.phase = phDepth) (he : execDepth s = .next t) : Inv t := by
  have hdir : s.dir = .compress := h.encoder_dir (by simp [State.inPhase, hp])
  have hoptr : s.optr = 0 := h.optr_zero (by simp [State.inPhase, hp])
  cases he
  exact AfterInit.inv { h.afterInit hp (by decide) with }
    (.coding (by simp) hoptr (by simp [hdir]))

theorem inv_sort (h : Inv s) (hp : s.phase = phSort) (he : execSort s = .next t) : Inv t := by
  have hoptr : s.optr = 0 := h.optr_zero (by simp [State.inPhase, hp])
  cases he
  exact AfterInit.inv { h.afterInit hp (by decide) with }
    (.coding (by simp) hoptr (h.iptr_payload (by simp [State.inPhase, hp])))

theorem inv_assign (h : Inv s) (hp : s.phase = phAssign) (he : execAssign s = .next t) : Inv t := by
  have hoptr : s.optr = 0 := h.optr_zero (by simp [State.inPhase, hp])
  unfold execAssign at he
  dsimp only at he
  split at he <;> cases he
  · rename_i hdir
    exact AfterInit.inv { h.afterInit hp (by decide) with } (.hdrw rfl hdir (.inl hoptr))
  · rename_i hdir
    have hdir := Dir.eq_decompress hdir
    exact AfterInit.inv { h.afterInit hp (by decide) with }
      (.unpack rfl hdir hoptr (h.iptr_payload (by simp [State.inPhase, hp]) hdir))

theorem inv_hdrw (h : Inv s) (hp : s.phase = phHdrw) (he : execHdrw s = .next t) : Inv t := by
  have hdir : s.dir = .compress := h.encoder_dir (by simp [State.inPhase, hp])
  cases he
  exact AfterInit.inv
    { h.afterInit hp (by decide) with obuf_wf := (header_writes s.obuf s.ent s.k s.k.toNat).wf h.obuf_wf }
    (.pack rfl hdir rfl)

theorem inv_pack (h : Inv s) (he : execPack s = .next t) : Inv t := by
  unfold execPack at he
  split at he
  · rename_i q hq
    cases he
    obtain ⟨hpad, -⟩ := pad_writes q
    exact WellShaped.finish { h.wellShaped with obuf_wf := ((packScan_puts hq).writes.trans hpad).wf h.obuf_wf }
  · cases he

theorem inv_hdrr (h : Inv s) (hp : s.phase = phHdrr) (he : execHdrr s = .next t) : Inv t := by
  have hdir : s.dir = .decompress := h.decoder_dir (by simp [State.inPhase, hp])
  have hoptr : s.optr = 0 := h.optr_zero (by simp [State.inPhase, hp])
  unfold execHdrr at he
  split at he <;> cases he
  · exact h.wellShaped.raise _
  · refine h.wellShaped.withCount fun _ hle => ?_
    exact AfterInit.inv { h.afterInit hp (by decide) with iptr_le := hle }
      (.coding (by simp) hoptr fun _ => rfl)

theorem inv_unpack (h : Inv s) (he : execUnpack s = .next t) : Inv t := by
  have hobuf := (unpackScan_emits s.rows (s.inputFrom s.iptr) s.unpacker).writes.wf h.obuf_wf
  unfold execUnpack at he
  split at he <;> rename_i v hv <;> cases he <;> rw [hv] at hobuf
  · exact WellShaped.finish { h.wellShaped with obuf_wf := hobuf }
  · have hmid : WellShaped (s.withUnpacker v) := { h.wellShaped with obuf_wf := hobuf }
    exact hmid.raise _

/-- A field of HDRW moves OPTR to an odd address of the header, or to its end (R155, R156). -/
theorem inv_hdrw_field (h : Inv s) (hp : s.phase = phHdrw) {m : Memory} {a n : Nat} (hw : WritesUp s.obuf n m a)
    (hodd : a % 2 = 1) (hle : a ≤ payloadAddr s.k.toNat) :
    Inv { s with obuf := m, optr := a, phase := endOfHeader a s.k phHdrw phPack } := by
  have hdir : s.dir = .compress := h.encoder_dir (by simp [State.inPhase, hp])
  refine AfterInit.inv { h.afterInit hp (by decide) with obuf_wf := hw.wf h.obuf_wf } ?_
  by_cases hend : payloadAddr s.k.toNat ≤ a
  · exact .pack (if_pos hend) hdir (Nat.le_antisymm hle hend)
  · exact .hdrw (if_neg hend) hdir (.inr ⟨hodd, Nat.lt_of_not_le hend⟩)

theorem inv_hdrK {k : Byte} (h : Inv s) (hr : Runnable s (.hdrK k)) (he : execHdrK k s = .next t) : Inv t := by
  unfold execHdrK at he
  obtain ⟨hp, -, -, -⟩ | ⟨hp, -, -⟩ := hr
  · have hdir : s.dir = .decompress := h.decoder_dir (by simp [State.inPhase, hp])
    have hoptr : s.optr = 0 := h.optr_zero (by simp [State.inPhase, hp])
    rw [if_pos hp] at he
    cases he
    refine h.wellShaped.withCount fun hk hle => ?_
    have hlt : 1 < payloadAddr k.toNat := by
      have : k.toNat ≠ 0 := fun hz => hk (BitVec.eq_of_toNat_eq hz)
      rw [payloadAddr]
      omega
    exact AfterInit.inv { h.afterInit hp (by decide) with iptr_le := Nat.le_trans (Nat.le_of_lt hlt) hle }
      (.hdrr hp hdir hoptr (.inr ⟨rfl, hlt, hle⟩))
  · have hne : ¬ s.phase = phHdrr := by rw [hp]; decide
    rw [if_neg hne, if_pos hp] at he
    cases he
    exact inv_hdrw_field h hp (.write k .refl) rfl (Nat.le_add_right 1 _)

theorem inv_hdrPair {sym len : Byte} (h : Inv s) (hr : Runnable s (.hdrPair sym len))
    (he : execHdrPair sym len s = .next t) : Inv t := by
  unfold execHdrPair at he
  obtain ⟨hp, hne, -, -⟩ | ⟨hp, hne, -, -⟩ := hr
  · have hdir : s.dir = .decompress := h.decoder_dir (by simp [State.inPhase, hp])
    have hoptr : s.optr = 0 := h.optr_zero (by simp [State.inPhase, hp])
    obtain ⟨hodd, hlt, hlen⟩ := (h.iptr_hdrr hp).resolve_left hne
    have hle : s.iptr + 2 ≤ payloadAddr s.k.toNat := by
      rw [payloadAddr] at *
      omega
    rw [if_pos hp] at he
    cases he
    refine AfterInit.inv { h.afterInit hp (by decide) with iptr_le := Nat.le_trans hle hlen } ?_
    by_cases hend : payloadAddr s.k.toNat ≤ s.iptr + 2
    · exact .coding (.inl (if_pos hend)) hoptr fun _ => Nat.le_antisymm hle hend
    · exact .hdrr (if_neg hend) hdir hoptr
        (.inr ⟨by rw [Nat.add_mod_right]; exact hodd, Nat.lt_of_not_le hend, hlen⟩)
  · have hnr : ¬ s.phase = phHdrr := by rw [hp]; decide
    obtain ⟨hodd, hlt⟩ := (h.optr_hdrw hp).resolve_left hne
    have hnext : payloadAddr (pairAt s.optr + 1) = s.optr + 2 := by
      rw [payloadAddr, pairAt]
      omega
    rw [if_neg hnr, if_pos hp] at he
    cases he
    refine inv_hdrw_field h hp (hnext ▸ writePair_writes s.obuf (pairAt s.optr) ⟨sym, len⟩) (by omega) ?_
    rw [payloadAddr] at *
    omega

/-- A command is accepted, or dropped while one runs (R196). -/
theorem inv_command (h : Inv s) (d : Dir) (he : (if s.busy then .next s else .next (s.accept d) :
    Host.Outcome State Fault Refusal) = .next t) : Inv t := by
  split at he <;> cases he
  · exact h
  · exact h.wellShaped.accept d

/-- Every instruction keeps the invariant where a step can run it. -/
theorem exec_inv {i : Instr} (hr : Runnable s i) (h : Inv s) (he : exec i s = .next t) : Inv t := by
  cases i with
  | compress => exact inv_command h .compress he
  | decompress => exact inv_command h .decompress he
  | idle => cases he; exact h
  | init => exact inv_init h hr he
  | freq => exact inv_freq h hr he
  | build => exact inv_build h hr he
  | depth => exact inv_depth h hr he
  | sort => exact inv_sort h hr he
  | assign => exact inv_assign h hr he
  | hdrw => exact inv_hdrw h hr he
  | pack => exact inv_pack h he
  | hdrr => exact inv_hdrr h hr he
  | unpack => exact inv_unpack h he
  | hdrK k => exact inv_hdrK h hr he
  | hdrPair sym len => exact inv_hdrPair h hr he

/-! ### Each host access keeps the invariant -/

theorem Inv.answer (h : Inv s) (v : Nat) : Inv (s.answer v) := { h with }

theorem Inv.answerFree (h : Inv s) (w : Nat) : Inv (s.answerFree w) := { h with }

theorem Inv.applyReset (h : Inv s) : Inv s.applyReset := { inv_resetAt h.lenW_pos with }

/-- ILEN is written in IDLE alone, where nothing is asked of IPTR (R39, R73). -/
theorem Inv.writeIlen (h : Inv s) (hb : ¬ s.busy) (v : Nat) : Inv { s with ilen := v } := by
  have hp : s.phase = phIdle := not_not.1 (h.busy_iff.not.1 hb)
  exact WellShaped.inv { h.wellShaped with } (by simp [State.inPhase, hp]) h.busy_iff h.olen_zero

theorem inv_hostReadObuf (h : Inv s) (a : Nat) : Inv (s.hostReadObuf a) := by
  unfold State.hostReadObuf
  split
  · exact h.answerFree 8
  · split
    · exact h.answer _
    · exact h.answerFree 8

theorem doAccess_inv (h : Inv s) (e : Event) : Inv (doAccess e s) := by
  cases e with
  | core => exact h
  | field => exact h
  | writeCmd v => exact h
  | writeStatus v => exact h
  | writeOlen v => exact h
  | readCmd => exact h.answer _
  | readStatus => exact h.answer _
  | readIlen => exact h.answer _
  | readIbuf a => exact h.answer _
  | readObuf a => exact inv_hostReadObuf h a
  | reset => exact h.applyReset
  | readOlen =>
    unfold doAccess
    dsimp only
    split
    · exact h.answerFree _
    · exact h.answer _
  | writeIlen v =>
    unfold doAccess
    dsimp only
    split
    · exact h
    · exact h.writeIlen ‹_› v
  | writeIbuf a v =>
    unfold doAccess
    dsimp only
    split
    · exact h
    · exact { h with ibuf_wf := Memory.write_wf a v h.ibuf_wf }

theorem hostAccess_inv (h : Inv s) (e : Event) : Inv (hostAccess e s) := by
  unfold hostAccess
  split
  · exact doAccess_inv h e
  · exact h

end

/-- Settles O42: by cases on what a step can do, each instruction where it can run and each host access keep the
invariant. -/
theorem stepKeepsInv : Obligations.StepKeepsInv := by
  intro s t hi h
  obtain ⟨i, hr, he⟩ | ⟨e, -, rfl⟩ := step_cases h
  · exact exec_inv hr (hi.of_sched _) he
  · exact hostAccess_inv (hi.of_sched _) e

end Sys2Proof.Machine

namespace Sys2Proof.Machine

open Sys2Proof

/-! ### Which instruction the next event brings -/

section

variable {s t : State} {i : Instr}

theorem step_of_run (h : fetch s = .run i t) : step s = exec i t := by
  rw [step, h]

theorem wholePhase_of_decode (h : decodePhase s.phase = .ok i) : wholePhase s = .run i s := by
  rw [wholePhase, h]

/-- The finest step takes the next container field (R205). -/
theorem fetchField_of_bytes {f : Format} {bs : List Byte} (h : fieldBytes s = some (f, bs)) (g : decode f bs = .ok i) :
    fetchField s = .run i s := by
  simp only [fetchField, h, g]

theorem fetchField_of_none (h : fieldBytes s = none) (g : decodePhase s.phase = .ok i) : fetchField s = .run i s := by
  simp only [fetchField, h, wholePhase_of_decode g]

theorem fetchPhase_of_decode (h : ¬ s.headerBegun) (g : decodePhase s.phase = .ok i) : fetchPhase s = .run i s := by
  rw [fetchPhase_of_not_begun h, wholePhase_of_decode g]

theorem fetchPhase_of_bytes {f : Format} {bs : List Byte} (h : s.headerBegun) (g : fieldBytes s = some (f, bs))
    (k : decode f bs = .ok i) : fetchPhase s = .run i s := by
  rw [fetchPhase_of_begun h, fetchField_of_bytes g k]

theorem fetch_of_nil (h : s.sched = []) : fetch s = fetchPhase s := by
  simp only [fetch, h]

variable {es : List Event}

theorem fetch_of_core (h : s.sched = .core :: es) : fetch s = fetchPhase { s with sched := es } := by
  simp only [fetch, h]

theorem fetch_of_field (h : s.sched = .field :: es) : fetch s = fetchField { s with sched := es } := by
  simp only [fetch, h]

theorem fetch_of_writeCmd {v : Byte} (h : s.sched = .writeCmd v :: es) (g : decodeCmd v = .ok i) :
    fetch s = .run i { s with sched := es } := by
  simp only [fetch, h, g]

end

/-- Settles O5: the fetch of each event that brings an instruction; what PHASE and the next field decode to does not
depend on the list of events. -/
theorem stepRunsDecodedInstruction : Obligations.StepRunsDecodedInstruction := by
  intro s i es
  refine ⟨fun hb hd hs => ?_, fun hb hd hs => ?_, fun f bs hb hf hd => ⟨fun hs => ?_, fun hs => ?_⟩,
    fun v hd hs => ?_, fun f bs hf hd hs => ?_, fun hf hd hs => ?_⟩ <;> apply step_of_run
  · exact (fetch_of_nil hs).trans (fetchPhase_of_decode hb hd)
  · exact (fetch_of_core hs).trans (fetchPhase_of_decode hb hd)
  · exact (fetch_of_nil hs).trans (fetchPhase_of_bytes hb hf hd)
  · exact (fetch_of_core hs).trans (fetchPhase_of_bytes hb hf hd)
  · exact fetch_of_writeCmd hs hd
  · exact (fetch_of_field hs).trans (fetchField_of_bytes hf hd)
  · exact (fetch_of_field hs).trans (fetchField_of_none hf hd)

/-- Settles O10: what `exec` leaves of its input, said once of every arm. -/
theorem noInstructionWritesItsInput : Obligations.NoInstructionWritesItsInput :=
  fun _ _ _ h => exec_keeps_input h

/-! ### What a host access does (R22 to R27) -/

/-- Settles O11: the bit fields of each value put together. -/
theorem statusByteLayout : Obligations.StatusByteLayout := ⟨rfl, rfl, rfl, rfl, rfl, rfl, rfl⟩

section

variable {s t u : State} {e : Event}

/-- A step makes the access the port can carry. -/
theorem step_of_access (h : fetch s = .access e t) (g : e.fits t.lenW = true) (hd : doAccess e t = u) :
    step s = .next u := by
  rw [step, h, ← hd, ← hostAccess_of_fits g]

/-- An access the spec drops is taken off the list alone, whatever it carries (R23, R25, R73). -/
theorem step_of_dropped (h : fetch s = .access e t) (hd : doAccess e t = t) : step s = .next t := by
  have ha : hostAccess e t = t := by rw [hostAccess, hd, ite_self]
  rw [step, h]
  exact congrArg Host.Outcome.next ha

theorem doAccess_writeIlen (h : ¬ s.busy) (v : Nat) : doAccess (.writeIlen v) s = { s with ilen := v } := if_neg h

theorem doAccess_writeIbuf (h : ¬ s.busy) (a : Nat) (v : Byte) :
    doAccess (.writeIbuf a v) s = { s with ibuf := Memory.write s.ibuf a v } := if_neg h

theorem doAccess_readOlen (h : ¬ s.busy) : doAccess .readOlen s = s.answer s.olen := if_neg h

/-- A byte of a result reads true (R27). -/
theorem hostReadObuf_result {a : Nat} {v : Byte} (hb : ¬ s.busy) (ha : a < s.olen)
    (hv : Memory.lookup s.obuf a = some v) : s.hostReadObuf a = s.answer v.toNat := by
  rw [State.hostReadObuf, if_neg (not_or.2 ⟨hb, Nat.not_le.2 ha⟩), hv]

/-- While a command runs, and at or beyond OLEN, OBUF reads as a free value (R27, R73). -/
theorem hostReadObuf_free {a : Nat} (h : s.busy ∨ s.olen ≤ a) : s.hostReadObuf a = s.answerFree 8 := if_pos h

/-- Read after write in IBUF (R26). -/
theorem readIbuf_write (s : State) (a : Nat) (v : Byte) (b : Nat) :
    { s with ibuf := Memory.write s.ibuf a v }.readIbuf b = if a = b then v else s.readIbuf b := by
  simp only [State.readIbuf, Memory.lookup_write]
  split <;> rfl

end

/-- Settles O13: the effect of each access the port can carry, in the branch where no command runs. -/
theorem hostAccessWhileNotBusy : Obligations.HostAccessWhileNotBusy := by
  intro s es hb
  have hb' : ¬ { s with sched := es }.busy := hb
  refine ⟨fun v hv => ?_, fun a v ha => ⟨{ s with sched := es, ibuf := Memory.write s.ibuf a v }, ?_, rfl, ?_, ?_⟩,
    ?_, ?_, ?_, fun a ha => ?_, ?_, fun a v ha hw hv => ?_, fun a ha hw => ?_, fun v => ?_, fun v => ?_⟩
  · exact step_of_access rfl (decide_eq_true hv) (doAccess_writeIlen hb' v)
  · exact step_of_access rfl (decide_eq_true ha) (doAccess_writeIbuf hb' a v)
  · exact (readIbuf_write s a v a).trans (if_pos rfl)
  · exact fun b hne => (readIbuf_write s a v b).trans (if_neg hne.symm)
  · exact step_of_access (e := .readCmd) rfl rfl rfl
  · exact step_of_access (e := .readStatus) rfl rfl rfl
  · exact step_of_access (e := .readIlen) rfl rfl rfl
  · exact step_of_access (e := .readIbuf a) rfl (decide_eq_true ha) rfl
  · exact step_of_access rfl rfl (doAccess_readOlen hb')
  · exact step_of_access (e := .readObuf a) rfl (decide_eq_true hw) (hostReadObuf_result hb' ha hv)
  · exact ⟨_, (Config.hostRead 8 s.draws).isLt,
      step_of_access (e := .readObuf a) rfl (decide_eq_true hw) (hostReadObuf_free (.inr ha))⟩
  · exact step_of_dropped (e := .writeStatus v) rfl rfl
  · exact step_of_dropped (e := .writeOlen v) rfl rfl

end Sys2Proof.Machine

namespace Sys2Proof.Machine

open Sys2Proof

/-! ### OBUF is written forward (R75) -/

section

variable {s t : State} {i : Instr}

/-- The bytes outside the addresses written are as before. -/
theorem WritesUp.lookup_of_outside {m m' : Memory} {a a' b : Nat} (h : WritesUp m a m' a') (hb : b < a ∨ a' ≤ b) :
    Memory.lookup m' b = Memory.lookup m b := by
  induction h with
  | refl => rfl
  | write v h ih =>
    have := h.le
    rw [Memory.lookup_write_ne _ v (by omega), ih (by omega)]

theorem WritesUp.of_same {m m' : Memory} {a a' : Nat} (h : m' = m ∧ a' = a) : WritesUp m a m' a' := by
  obtain ⟨rfl, rfl⟩ := h
  exact .refl

/-! ### HDRW as one step starts at address 0 -/

/-- How an instruction is fetched: as a step of the sequencer, as the finest step, or by a CMD write. -/
theorem fetch_run_cases (h : fetch s = .run i t) :
    fetchPhase t = .run i t ∨ fetchField t = .run i t ∨ ∃ v, decodeCmd v = .ok i := by
  unfold fetch at h
  split at h
  · obtain ⟨rfl, -⟩ := fetchPhase_run h
    exact .inl h
  · obtain ⟨rfl, -⟩ := fetchPhase_run h
    exact .inl h
  · obtain ⟨rfl, -⟩ := fetchField_run h
    exact .inr (.inl h)
  · split at h
    · cases h
      exact .inr (.inr ⟨_, ‹_›⟩)
    · cases h
  · cases h

/-- A CMD write brings one of the two commands (R92). -/
theorem decodeCmd_ok {v : Byte} (h : decodeCmd v = .ok i) : i = .compress ∨ i = .decompress := by
  unfold decodeCmd at h
  split at h
  · cases h
    exact .inl rfl
  · split at h
    · cases h
      exact .inr rfl
    · cases h

/-- In HDRW the finest step is a container field, never the whole phase (R205). -/
theorem fetchField_ne_hdrw (hp : s.phase = phHdrw) : fetchField s ≠ .run .hdrw t := by
  by_cases ho : s.optr = 0 <;> simp [fetchField, fieldBytes, decode, hp, ho]

/-- HDRW as one step runs only before its first field: a header begun field by field goes on so (R75). -/
theorem optr_of_fetch_hdrw (h : fetch s = .run .hdrw t) : t.optr = 0 := by
  have hp : t.phase = phHdrw := fetch_runnable h
  obtain hf | hf | ⟨v, hv⟩ := fetch_run_cases h
  · by_cases hb : t.headerBegun
    · rw [fetchPhase_of_begun hb] at hf
      exact absurd hf (fetchField_ne_hdrw hp)
    · exact not_not.1 fun ho => hb (.inr ⟨hp, ho⟩)
  · exact absurd hf (fetchField_ne_hdrw hp)
  · rcases decodeCmd_ok hv with hc | hc <;> cases hc

/-! ### Each instruction writes forward -/

/-- The instructions that write OBUF or OPTR in some state (R27, R39). -/
def mayWriteOutput : Instr → Bool
  | .init | .hdrw | .pack | .unpack | .hdrK _ | .hdrPair _ _ => true
  | _ => false

theorem exec_keeps_output (hw : mayWriteOutput i = false) (h : exec i s = .next t) :
    t.obuf = s.obuf ∧ t.optr = s.optr := by
  cases i with
  | init | hdrw | pack | unpack | hdrK | hdrPair => cases hw
  | _ =>
    simp only [exec, execCompress, execDecompress, execIdle, execFreq, execBuild, execDepth, execSort, execAssign,
      execHdrr, withCount] at h
    repeat' split at h
    all_goals cases h
    all_goals exact ⟨rfl, rfl⟩

/-- Loading and testing the count byte writes no output. -/
theorem withCount_keeps_output (k : Byte) (go : State → State)
    (hgo : (go { s with k := k }).obuf = s.obuf ∧ (go { s with k := k }).optr = s.optr) :
    (withCount k s go).obuf = s.obuf ∧ (withCount k s go).optr = s.optr := by
  obtain ⟨-, e⟩ | ⟨-, -, e⟩ | ⟨-, -, e⟩ := withCount_cases k s go <;> rw [e]
  · exact ⟨rfl, rfl⟩
  · exact ⟨rfl, rfl⟩
  · exact hgo

theorem pack_writesUp (h : execPack s = .next t) : WritesUp s.obuf s.optr t.obuf t.optr := by
  unfold execPack at h
  split at h
  · rename_i q hq
    cases h
    exact (packScan_puts hq).writes.trans (pad_writes q).1
  · cases h

theorem unpack_writesUp (h : execUnpack s = .next t) : WritesUp s.obuf s.optr t.obuf t.optr := by
  have hw := (unpackScan_emits s.rows (s.inputFrom s.iptr) s.unpacker).writes
  unfold execUnpack at h
  split at h <;> rename_i v hv <;> cases h <;> rw [hv] at hw <;> exact hw

theorem hdrK_writesUp {k : Byte} (hr : Runnable s (.hdrK k)) (h : execHdrK k s = .next t) :
    WritesUp s.obuf s.optr t.obuf t.optr := by
  unfold execHdrK at h
  obtain ⟨hp, -, -, -⟩ | ⟨hp, ho, -⟩ := hr
  · rw [if_pos hp] at h
    cases h
    exact .of_same (withCount_keeps_output k _ ⟨rfl, rfl⟩)
  · have hne : ¬ s.phase = phHdrr := by rw [hp]; decide
    rw [if_neg hne, if_pos hp] at h
    cases h
    rw [ho]
    exact .write k .refl

/-- In HDRW the pair goes to OPTR and the next address, because OPTR is odd there (R67, R155). -/
theorem hdrPair_writesUp {sym len : Byte} (hi : Inv s) (hr : Runnable s (.hdrPair sym len))
    (h : execHdrPair sym len s = .next t) : WritesUp s.obuf s.optr t.obuf t.optr := by
  unfold execHdrPair at h
  obtain ⟨hp, -, -, -⟩ | ⟨hp, ho, -, -⟩ := hr
  · rw [if_pos hp] at h
    cases h
    exact .refl
  · have hne : ¬ s.phase = phHdrr := by rw [hp]; decide
    obtain ⟨hodd, -⟩ := (hi.optr_hdrw hp).resolve_left ho
    have hat : payloadAddr (pairAt s.optr) = s.optr := by
      rw [payloadAddr, pairAt]
      omega
    have hnext : payloadAddr (pairAt s.optr + 1) = s.optr + 2 := by
      rw [payloadAddr, pairAt]
      omega
    have hw := writePair_writes s.obuf (pairAt s.optr) ⟨sym, len⟩
    rw [if_neg hne, if_pos hp] at h
    cases h
    rwa [hat, hnext] at hw

/-- Every instruction but INIT writes OBUF from OPTR up to the OPTR it leaves, where a step can run it (R75). -/
theorem exec_writesUp (hi : Inv s) (hr : Runnable s i) (hw : i = .hdrw → s.optr = 0) (hn : i ≠ .init)
    (h : exec i s = .next t) : WritesUp s.obuf s.optr t.obuf t.optr := by
  by_cases hm : mayWriteOutput i = true
  · cases i with
    | init => exact absurd rfl hn
    | hdrw =>
      cases h
      rw [hw rfl]
      exact header_writes s.obuf s.ent s.k s.k.toNat
    | pack => exact pack_writesUp h
    | unpack => exact unpack_writesUp h
    | hdrK k => exact hdrK_writesUp hr h
    | hdrPair sym len => exact hdrPair_writesUp hi hr h
    | _ => cases hm
  · exact .of_same (exec_keeps_output (Bool.eq_false_iff.2 hm) h)

/-- INIT apart, output is written in the header phases, PACK and UNPACK alone (R75). -/
theorem inPhase_of_mayWriteOutput (hm : mayWriteOutput i = true) (hn : i ≠ .init) (hr : Runnable s i) :
    s.inPhase [phHdrw, phPack, phHdrr, phUnpack] := by
  have listed {p : PhaseCode} (hp : s.phase = p) (hm : p ∈ [phHdrw, phPack, phHdrr, phUnpack]) :
      s.inPhase [phHdrw, phPack, phHdrr, phUnpack] := by rwa [← hp] at hm
  cases i with
  | init => exact absurd rfl hn
  | hdrw | pack | unpack => exact listed hr (by decide)
  | hdrK | hdrPair => exact hr.elim (fun h => listed h.1 (by decide)) (fun h => listed h.1 (by decide))
  | _ => cases hm

/-- INIT writes OPTR but not OBUF (R110), and nothing else that writes output runs in IDLE or INIT. -/
theorem exec_keeps_obuf (hp : s.inPhase [phIdle, phInit]) (hr : Runnable s i) (h : exec i s = .next t) :
    t.obuf = s.obuf := by
  by_cases hn : i = .init
  · subst hn
    cases h
    rfl
  · refine (exec_keeps_output (Bool.eq_false_iff.2 fun hm => ?_) h).1
    have hw := inPhase_of_mayWriteOutput hm hn hr
    have e : s.phase = phIdle ∨ s.phase = phInit := by simpa [State.inPhase] using hp
    rcases e with e | e <;> simp [State.inPhase, e] at hw

/-! ### What a step does to OBUF -/

/-- OBUF from one state to the next: outside INIT it is written from OPTR up, and in IDLE and INIT not at all. -/
structure WroteForward (s t : State) : Prop where
  up : s.phase ≠ phInit → WritesUp s.obuf s.optr t.obuf t.optr
  same : s.inPhase [phIdle, phInit] → t.obuf = s.obuf

theorem exec_wroteForward (hi : Inv s) (hr : Runnable s i) (hw : i = .hdrw → s.optr = 0) (h : exec i s = .next t) :
    WroteForward s t := by
  refine ⟨fun hp => exec_writesUp hi hr hw (fun e => ?_) h, fun hp => exec_keeps_obuf hp hr h⟩
  subst e
  exact hp hr

theorem hostReadObuf_keeps_output (s : State) (a : Nat) :
    (s.hostReadObuf a).obuf = s.obuf ∧ (s.hostReadObuf a).optr = s.optr := by
  unfold State.hostReadObuf
  split
  · exact ⟨rfl, rfl⟩
  · split <;> exact ⟨rfl, rfl⟩

/-- No host access but reset writes OBUF or OPTR (R27, R39). -/
theorem hostAccess_keeps_output {e : Event} (h : e ≠ .reset) (s : State) :
    (hostAccess e s).obuf = s.obuf ∧ (hostAccess e s).optr = s.optr := by
  unfold hostAccess
  split
  · cases e with
    | reset => exact absurd rfl h
    | readObuf a => exact hostReadObuf_keeps_output s a
    | writeIlen | writeIbuf | readOlen =>
      unfold doAccess
      dsimp only
      split <;> exact ⟨rfl, rfl⟩
    | _ => exact ⟨rfl, rfl⟩
  · exact ⟨rfl, rfl⟩

theorem step_wroteForward (hi : Inv s) (h : step s = .next t) (hr : s.sched.head? ≠ some .reset) : WroteForward s t := by
  obtain ⟨i, u, hf, he⟩ | ⟨e, u, hf, rfl⟩ := step_next_cases h
  · have hrun : Runnable u i := fetch_runnable hf
    have hw : i = .hdrw → u.optr = 0 := fun e => optr_of_fetch_hdrw (e ▸ hf)
    obtain rfl := fetch_run_state hf
    obtain ⟨hup, hsame⟩ := exec_wroteForward (hi.of_sched _) hrun hw he
    exact ⟨hup, hsame⟩
  · obtain ⟨hs, rfl⟩ := fetch_access_state hf
    have hk := hostAccess_keeps_output (e := e) (fun e => hr (by rw [hs, e]; rfl)) { s with sched := s.sched.tail }
    exact ⟨fun _ => .of_same hk, fun _ => hk.1⟩

end

/-- Settles O53: while a command runs outside INIT a step writes from OPTR up, and elsewhere it writes nothing. -/
theorem outputIsWrittenForward : Obligations.OutputIsWrittenForward := by
  intro s t hi h hr
  obtain ⟨hup, hsame⟩ := step_wroteForward hi h hr
  refine ⟨fun _ hp => (hup hp).le, fun a ha => ?_⟩
  by_cases hp : s.inPhase [phIdle, phInit]
  · rw [hsame hp]
  · simp only [State.inPhase, List.mem_cons, List.not_mem_nil, or_false, not_or] at hp
    obtain ⟨hidle, hinit⟩ := hp
    have hb : s.busy := hi.busy_iff.2 hidle
    exact (hup hinit).lookup_of_outside (by tauto)

end Sys2Proof.Machine

namespace Sys2Proof.Machine

open Sys2Proof

/-! ### What an instruction reads of IBUF (R75) -/

section

variable {s : State} {m : Memory}

/-- An outcome with other bytes in IBUF. -/
def outcomeWithIbuf (m : Memory) : Host.Outcome State Fault Refusal → Host.Outcome State Fault Refusal
  | .next t => .next { t with ibuf := m }
  | .fault r => .fault r
  | .refused r => .refused r

/-- The tests of the count byte do not look at IBUF; `go` is run where the whole header lies below ILEN (R160). -/
theorem withCount_ibuf {k : Byte} {go : State → State}
    (hgo : payloadAddr k.toNat ≤ s.ilen → go { s with ibuf := m, k := k } = { go { s with k := k } with ibuf := m }) :
    withCount k { s with ibuf := m } go = { withCount k s go with ibuf := m } := by
  dsimp only [withCount]
  split
  · rfl
  · split
    · rfl
    · exact hgo (by omega)

/-- Whether an instruction reads IBUF when it runs (R75); a field's bytes are read before, in fetching it. -/
def readsInput : Instr → Bool
  | .freq | .pack | .hdrr | .unpack => true
  | _ => false

/-- An instruction that reads no input answers the same whatever IBUF holds. -/
theorem exec_ibuf_of_not_readsInput {i : Instr} (hi : readsInput i = false) (s : State) (m : Memory) :
    exec i { s with ibuf := m } = outcomeWithIbuf m (exec i s) := by
  cases i with
  | freq | pack | hdrr | unpack => cases hi
  | idle | init | depth | sort | hdrw => rfl
  | compress => dsimp only [exec, execCompress, State.busy]; split <;> rfl
  | decompress => dsimp only [exec, execDecompress, State.busy]; split <;> rfl
  | build =>
    have e : { s with ibuf := m }.buildTree = s.buildTree := rfl
    dsimp only [exec, execBuild]
    rw [e]
    split <;> rfl
  | assign => dsimp only [exec, execAssign]; split <;> rfl
  | hdrK k =>
    dsimp only [exec, execHdrK]
    split
    · exact congrArg Host.Outcome.next (withCount_ibuf fun _ => rfl)
    · split <;> rfl
  | hdrPair sym len =>
    dsimp only [exec, execHdrPair]
    split
    · rfl
    · split <;> rfl

/-! ### The input bytes alone -/

variable (hm : ∀ a, a < s.ilen → { s with ibuf := m }.readIbuf a = s.readIbuf a)
include hm

theorem inputFrom_of_same_input (start : Nat) : { s with ibuf := m }.inputFrom start = s.inputFrom start := by
  refine List.map_congr_left fun a ha => hm a ?_
  have := List.mem_range'_1.1 ha
  dsimp only at this
  omega

/-- A header that ends within ILEN is read from the input bytes alone (R160). -/
theorem readPairs_of_same_input {n : Nat} (hn : payloadAddr n ≤ s.ilen) (ent : Vector Entry 255) :
    (List.range n).foldl (readPair { s with ibuf := m }) ent = (List.range n).foldl (readPair s) ent := by
  refine List.foldl_ext _ _ _ fun e j hj => ?_
  have hj := List.mem_range.1 hj
  rw [payloadAddr] at hn
  rw [readPair, readPair, hm (symAddr j) (by rw [symAddr]; omega), hm (lenAddr j) (by rw [lenAddr]; omega)]

theorem execFreq_of_same_input : execFreq { s with ibuf := m } = outcomeWithIbuf m (execFreq s) := by
  have e : { s with ibuf := m }.message = s.message := inputFrom_of_same_input hm 0
  unfold execFreq
  rw [e]
  dsimp only [State.counter]
  split <;> rfl

theorem execPack_of_same_input : execPack { s with ibuf := m } = outcomeWithIbuf m (execPack s) := by
  have e : { s with ibuf := m }.message = s.message := inputFrom_of_same_input hm 0
  unfold execPack
  rw [e]
  dsimp only [State.packer]
  split <;> rfl

theorem execUnpack_of_same_input : execUnpack { s with ibuf := m } = outcomeWithIbuf m (execUnpack s) := by
  have e : { s with ibuf := m }.inputFrom s.iptr = s.inputFrom s.iptr := inputFrom_of_same_input hm s.iptr
  unfold execUnpack
  dsimp only
  rw [e]
  dsimp only [State.unpacker, State.rows]
  split <;> rfl

theorem execHdrr_of_same_input : execHdrr { s with ibuf := m } = outcomeWithIbuf m (execHdrr s) := by
  unfold execHdrr
  dsimp only
  by_cases h : s.ilen < 1
  · rw [if_pos h, if_pos h]
    rfl
  · rw [if_neg h, if_neg h, hm 0 (by omega)]
    exact congrArg Host.Outcome.next (withCount_ibuf fun hle =>
      congrArg (fun ent => { s with
        ibuf := m, k := s.readIbuf 0, ent := ent, iptr := payloadAddr (s.readIbuf 0).toNat, phase := phSort })
        (readPairs_of_same_input hm hle s.ent))

end

/-- Settles O54: the instructions that read no IBUF byte, and the four whose reads stay below ILEN. -/
theorem bytesBeyondIlenDoNotMatter : Obligations.BytesBeyondIlenDoNotMatter := by
  intro i s t m hm h
  suffices e : exec i { s with ibuf := m } = outcomeWithIbuf m (exec i s) by
    rw [e, h]
    rfl
  by_cases hi : readsInput i = true
  · cases i with
    | freq => exact execFreq_of_same_input hm
    | pack => exact execPack_of_same_input hm
    | hdrr => exact execHdrr_of_same_input hm
    | unpack => exact execUnpack_of_same_input hm
    | _ => cases hi
  · exact exec_ibuf_of_not_readsInput (Bool.eq_false_iff.2 hi) s m

end Sys2Proof.Machine

namespace Sys2Proof.Machine

open Sys2Proof

/-- Settles O33: the arm of each field that neither header phase takes. -/
theorem fieldOutsideHeaderPhasesChangesNothing : Obligations.FieldOutsideHeaderPhasesChangesNothing := by
  intro s k sym len hr hw
  refine ⟨?_, ?_⟩
  · show execHdrK k s = .next s
    rw [execHdrK, if_neg hr, if_neg hw]
  · show execHdrPair sym len s = .next s
    rw [execHdrPair, if_neg hr, if_neg hw]

/-! ### Host accesses while a command runs (R73) -/

section

variable {s : State} (hb : s.busy)
include hb

theorem exec_command_busy {i : Instr} (h : i = .compress ∨ i = .decompress) : exec i s = .next s := by
  rcases h with rfl | rfl <;> exact if_pos hb

/-- A CMD write is dropped while a command runs, whatever its value (R73, R93). -/
theorem step_writeCmd_busy (v : Byte) (es : List Event) :
    step { s with sched := .writeCmd v :: es } = .next { s with sched := es } := by
  cases hd : decodeCmd v with
  | ok i =>
    rw [step_of_run (fetch_of_writeCmd rfl hd)]
    exact exec_command_busy (s := { s with sched := es }) hb (decodeCmd_ok hd)
  | rejected r =>
    refine step_of_dropped (e := .writeCmd v) ?_ rfl
    simp only [fetch, hd]

theorem doAccess_writeIlen_busy (v : Nat) : doAccess (.writeIlen v) s = s := if_pos hb

theorem doAccess_writeIbuf_busy (a : Nat) (v : Byte) : doAccess (.writeIbuf a v) s = s := if_pos hb

theorem doAccess_readStatus_busy : doAccess .readStatus s = s.answer 0x01 := by
  show s.answer s.status.toByte.toNat = _
  rw [hb]
  rfl

theorem doAccess_readOlen_busy : doAccess .readOlen s = s.answerFree (Config.olenW s.lenW) := if_pos hb

end

/-- Settles O12: the effect of each access the port can carry, in the branch where a command runs. -/
theorem hostAccessWhileBusy : Obligations.HostAccessWhileBusy := by
  intro s es hb
  have hb' : { s with sched := es }.busy := hb
  refine ⟨fun v => step_writeCmd_busy hb v es, fun v => ?_, fun a v => ?_, fun v => ?_, fun v => ?_, ?_, ?_, ?_,
    fun a ha => ?_, ?_, fun a ha => ?_⟩
  · exact step_of_dropped rfl (doAccess_writeIlen_busy hb' v)
  · exact step_of_dropped rfl (doAccess_writeIbuf_busy hb' a v)
  · exact step_of_dropped (e := .writeStatus v) rfl rfl
  · exact step_of_dropped (e := .writeOlen v) rfl rfl
  · exact step_of_access (e := .readCmd) rfl rfl rfl
  · exact step_of_access rfl rfl (doAccess_readStatus_busy hb')
  · exact step_of_access (e := .readIlen) rfl rfl rfl
  · exact step_of_access (e := .readIbuf a) rfl (decide_eq_true ha) rfl
  · exact ⟨_, (Config.hostRead (s.lenW + 8) s.draws).isLt, step_of_access rfl rfl (doAccess_readOlen_busy hb')⟩
  · exact ⟨_, (Config.hostRead 8 s.draws).isLt,
      step_of_access (e := .readObuf a) rfl (decide_eq_true ha) (hostReadObuf_free (.inl hb'))⟩

end Sys2Proof.Machine

namespace Sys2Proof.Machine

open Sys2Proof

/-! ### The assigned PHASE codes (R96, R97) -/

theorem decodePhase_of_reserved {c : PhaseCode} (h : 11 ≤ c.toNat) : decodePhase c = .rejected (.reservedPhase c) := by
  have hne {d : PhaseCode} (hd : d.toNat ≤ 10) : c ≠ d := by
    rintro rfl
    omega
  simp [decodePhase, hne]

theorem decodePhase_of_assigned {c : PhaseCode} (h : c.toNat ≤ 10) : ∃ i, decodePhase c = .ok i := by
  have hall : ∀ c : PhaseCode, c.toNat ≤ 10 → (decodePhase c).toOption.isSome = true := by decide
  have hc := hall c h
  cases hd : decodePhase c with
  | ok i => exact ⟨i, rfl⟩
  | rejected r =>
    rw [hd] at hc
    cases hc

section

variable {s : State}

theorem wholePhase_of_reserved (h : 11 ≤ s.phase.toNat) : wholePhase s = .stuck s.phase := by
  rw [wholePhase, decodePhase_of_reserved h]

/-- No reserved code names a header phase, so every step of the sequencer is the phase operation (R97, R205). -/
theorem fetchPhase_of_reserved (h : 11 ≤ s.phase.toNat) : fetchPhase s = .stuck s.phase := by
  rw [fetchPhase_of_not_begun (not_headerBegun (by bv_omega) (by bv_omega)), wholePhase_of_reserved h]

theorem fetchField_of_reserved (h : 11 ≤ s.phase.toNat) : fetchField s = .stuck s.phase := by
  have hr : s.phase ≠ phHdrr := by bv_omega
  have hw : s.phase ≠ phHdrw := by bv_omega
  have hf : fieldBytes s = none := by rw [fieldBytes, if_neg hr, if_neg hw]
  simp only [fetchField, hf, wholePhase_of_reserved h]

theorem step_of_stuck {c : PhaseCode} (h : fetch s = .stuck c) : step s = .fault (.stuckPhase c) := by
  rw [step, h]

theorem wholePhase_not_stuck (h : s.phase.toNat ≤ 10) {c : PhaseCode} : wholePhase s ≠ .stuck c := by
  obtain ⟨i, hi⟩ := decodePhase_of_assigned h
  rw [wholePhase_of_decode hi]
  exact Fetched.noConfusion

theorem fetchField_not_stuck (h : s.phase.toNat ≤ 10) {c : PhaseCode} : fetchField s ≠ .stuck c := by
  unfold fetchField
  split
  · exact wholePhase_not_stuck h
  · split
    · exact Fetched.noConfusion
    · exact wholePhase_not_stuck h

theorem fetchPhase_not_stuck (h : s.phase.toNat ≤ 10) {c : PhaseCode} : fetchPhase s ≠ .stuck c := by
  unfold fetchPhase
  split
  · exact fetchField_not_stuck h
  · exact wholePhase_not_stuck h

/-- With an assigned PHASE code every event brings an instruction or an access (R97). -/
theorem fetch_not_stuck (h : s.phase.toNat ≤ 10) {c : PhaseCode} : fetch s ≠ .stuck c := by
  unfold fetch
  split
  · exact fetchPhase_not_stuck h
  · exact fetchPhase_not_stuck (by exact h)
  · exact fetchField_not_stuck (by exact h)
  · split <;> exact Fetched.noConfusion
  · exact Fetched.noConfusion

end

/-- Settles O6: each event that moves the sequencer finds PHASE's operation, and there is none. -/
theorem reservedPhaseCodeIsStuck : Obligations.ReservedPhaseCodeIsStuck := by
  intro s es h hs
  apply step_of_stuck
  obtain hs | hs | hs := hs
  · exact (fetch_of_nil hs).trans (fetchPhase_of_reserved h)
  · exact (fetch_of_core hs).trans (fetchPhase_of_reserved h)
  · exact (fetch_of_field hs).trans (fetchField_of_reserved h)

end Sys2Proof.Machine

namespace Sys2Proof.Machine

open Sys2Proof

/-! ### Which instructions end in a next state -/

theorem Contract.extended_cons (b : Byte) (m : List Byte) :
    extended (b :: m) = if b = Config.cr then extended m else b :: extended m := by
  by_cases h : b = Config.cr <;> simp [extended, filterCr, h]

/-- PACK's scan misses no entry where every byte of the extended message has one (R174). -/
theorem packScan_ok {em : Vector MapEntry 256} {bs : List Byte}
    (h : ∀ b ∈ Contract.extended bs, (tget em b.toNat).valid = true) (p : Packer) :
    ∃ q, packScan em bs p = .ok q := by
  induction bs generalizing p with
  | nil => exact ⟨_, if_pos (h _ List.mem_cons_self)⟩
  | cons b bs ih =>
    rw [Contract.extended_cons] at h
    by_cases hb : b = Config.cr
    · rw [packScan, if_pos hb]
      rw [if_pos hb] at h
      exact ih h p
    · rw [if_neg hb, List.forall_mem_cons] at h
      obtain ⟨hvalid, h⟩ := h
      have hcode : putCode em b p = .ok (putBits (tget em b.toNat).code (tget em b.toNat).len.toNat p) := if_pos hvalid
      rw [packScan, if_neg hb, hcode]
      exact ih h _

/-- PACK alone can stop (R174). -/
theorem exec_completes {i : Instr} (h : i ≠ .pack) (s : State) : ∃ t, exec i s = .next t := by
  cases i with
  | pack => exact absurd rfl h
  | idle | init | depth | sort | hdrw => exact ⟨_, rfl⟩
  | build =>
    obtain ⟨r, d, e⟩ := execBuild_eq s
    exact ⟨_, e⟩
  | _ =>
    dsimp only [exec, execCompress, execDecompress, execFreq, execAssign, execHdrr, execUnpack, execHdrK, execHdrPair]
    repeat' split
    all_goals exact ⟨_, rfl⟩

theorem execPack_completes {s : State} (h : ∀ b ∈ Contract.extended s.message, (tget s.em b.toNat).valid = true) :
    ∃ t, execPack s = .next t := by
  obtain ⟨q, hq⟩ := packScan_ok h s.packer
  exact ⟨_, by rw [execPack, hq]⟩

/-- Where the invariant holds and PACK finds its entries, a step answers a next state (R97, R174). -/
theorem step_completes {s : State} (hi : Inv s) (hc : Covered s) : ∃ t, step s = .next t := by
  cases hf : fetch s with
  | stuck c => exact absurd hf (fetch_not_stuck hi.phase_assigned)
  | access e u => exact ⟨_, by rw [step, hf]⟩
  | run i u =>
    rw [step_of_run hf]
    by_cases h : i = .pack
    · subst h
      have hp : u.phase = phPack := fetch_runnable hf
      have hu : Covered u := fetch_run_state hf ▸ hc.of_sched _
      exact execPack_completes (hu.in_map (by simp [State.inPhase, hp]))
    · exact exec_completes h u

end Sys2Proof.Machine

namespace Sys2Proof.Machine

open Sys2Proof

/-! ### The container's fields in the header phases (R81, R82, R156, R160) -/

section

variable {s : State}

theorem execHdrK_hdrr (hp : s.phase = phHdrr) (k : Byte) :
    exec (.hdrK k) s = .next (withCount k s fun t => { t with iptr := 1 }) := if_pos hp

theorem execHdrK_hdrw (hp : s.phase = phHdrw) (k : Byte) :
    exec (.hdrK k) s = .next { s with
      obuf := Memory.write s.obuf 0 k, optr := 1, phase := endOfHeader 1 s.k phHdrw phPack } := by
  have hne : ¬ s.phase = phHdrr := by rw [hp]; decide
  exact (if_neg hne).trans (if_pos hp)

theorem execHdrPair_hdrr (hp : s.phase = phHdrr) (sym len : Byte) :
    exec (.hdrPair sym len) s = .next { s with
      ent := tset s.ent (pairAt s.iptr) ⟨sym, len⟩
      iptr := s.iptr + 2
      phase := endOfHeader (s.iptr + 2) s.k phHdrr phSort } := if_pos hp

theorem execHdrPair_hdrw (hp : s.phase = phHdrw) (sym len : Byte) :
    exec (.hdrPair sym len) s = .next { s with
      obuf := writePair s.obuf (pairAt s.optr) ⟨sym, len⟩
      optr := s.optr + 2
      phase := endOfHeader (s.optr + 2) s.k phHdrw phPack } := by
  have hne : ¬ s.phase = phHdrr := by rw [hp]; decide
  exact (if_neg hne).trans (if_pos hp)

end

/-- A field leaves PHASE as it is, or ends the header. -/
theorem endOfHeader_cases (cursor : Nat) (k : Byte) (phase next : PhaseCode) :
    endOfHeader cursor k phase next = phase ∨ endOfHeader cursor k phase next = next := by
  unfold endOfHeader
  split
  · exact .inr rfl
  · exact .inl rfl

end Sys2Proof.Machine

namespace Sys2Proof.Machine

open Sys2Proof

/-! ### The tables by phase -/

section

variable {s : State}

/-- What each phase finds in the tables, phase by phase (R32, R110, R174). -/
inductive Stocked (s : State) : Prop where
  | unused (hp : s.phase = phIdle ∨ s.phase = phInit ∨ s.phase = phHdrr)
  | cleared (hp : s.phase = phFreq) (hk : s.k = 0) (hf : ∀ x : Byte, tget s.freq x.toNat = 0)
  | entered (hp : s.phase = phBuild ∨ s.phase = phDepth ∨ s.phase = phSort) (hk : s.k ≠ 0)
      (he : s.dir = .compress → ∀ b ∈ Contract.extended s.message, ∃ e ∈ s.entries, e.sym = b)
  | sorted (hp : s.phase = phAssign) (hk : s.k ≠ 0)
      (hr : s.dir = .compress → ∀ b ∈ Contract.extended s.message, ∃ r ∈ s.rows, r.sym = b)
  | mapped (hp : s.phase = phHdrw ∨ s.phase = phPack) (hk : s.k ≠ 0)
      (hm : ∀ b ∈ Contract.extended s.message, (tget s.em b.toNat).valid = true)
  | decoding (hp : s.phase = phUnpack) (hk : s.k ≠ 0)

theorem Stocked.covered (h : Stocked s) : Covered s := by
  cases h with
  | unused hp => rcases hp with e | e | e <;> exact
    { freq_clear := by simp [e]
      has_entries := by simp [State.inPhase, e]
      in_entries := by simp [State.inPhase, e]
      in_rows := by simp [e]
      in_map := by simp [State.inPhase, e] }
  | cleared hp hk hf => exact
    { freq_clear := fun _ => ⟨hk, hf⟩
      has_entries := by simp [State.inPhase, hp]
      in_entries := by simp [State.inPhase, hp]
      in_rows := by simp [hp]
      in_map := by simp [State.inPhase, hp] }
  | entered hp hk he => rcases hp with e | e | e <;> exact
    { freq_clear := by simp [e]
      has_entries := fun _ => hk
      in_entries := fun _ => he
      in_rows := by simp [e]
      in_map := by simp [State.inPhase, e] }
  | sorted hp hk hr => exact
    { freq_clear := by simp [hp]
      has_entries := fun _ => hk
      in_entries := by simp [State.inPhase, hp]
      in_rows := fun _ => hr
      in_map := by simp [State.inPhase, hp] }
  | mapped hp hk hm => rcases hp with e | e <;> exact
    { freq_clear := by simp [e]
      has_entries := fun _ => hk
      in_entries := by simp [State.inPhase, e]
      in_rows := by simp [e]
      in_map := fun _ => hm }
  | decoding hp hk => exact
    { freq_clear := by simp [hp]
      has_entries := fun _ => hk
      in_entries := by simp [State.inPhase, hp]
      in_rows := by simp [hp]
      in_map := by simp [State.inPhase, hp] }

end

/-! ### A byte's way from ENT through CT to EM (R174) -/

section

variable {s : State} {b : Byte}

theorem exists_entry_iff : (∃ e ∈ s.entries, e.sym = b) ↔ ∃ j < s.k.toNat, (tget s.ent j).sym = b := by
  simp [State.entries]

theorem exists_row_iff : (∃ r ∈ s.rows, r.sym = b) ↔ ∃ j < s.k.toNat, (tget s.ct j).sym = b := by
  simp [State.rows]

/-- DEPTH writes no symbol of ENT (R136). -/
@[simp] theorem sym_setLen (ent : Vector Entry 255) (j : Nat) (v : Byte) (i : Nat) :
    (tget (setLen ent j v) i).sym = (tget ent i).sym := by
  rw [setLen, tget_tset]
  split
  · rename_i h
    rw [h.1]
  · rfl

@[simp] theorem sym_assignLengths (node : Vector Node 509) (k : Nat) (ent : Vector Entry 255) (i : Nat) :
    (tget (assignLengths node k ent) i).sym = (tget ent i).sym := by
  have hloop : (tget ((List.range k).foldl (fun ent j => setLen ent j (tget node j).depth) ent) i).sym =
      (tget ent i).sym := by
    induction k with
    | zero => rfl
    | succ k ih => rw [List.range_succ, List.foldl_append, List.foldl_cons, List.foldl_nil, sym_setLen, ih]
  unfold assignLengths
  dsimp only
  split
  · rw [sym_setLen, hloop]
  · exact hloop

/-- SORT puts every entry in a row (R141). -/
theorem exists_row_of_sort (h : ∃ e ∈ s.entries, e.sym = b) :
    ∃ j < s.k.toNat, (tget (writeRows s.ct 0 (canonicalOrder s.entries)) j).sym = b := by
  obtain ⟨e, he, rfl⟩ := h
  have hlen : (canonicalOrder s.entries).length = s.k.toNat := by simp
  have hk := s.k.isLt
  obtain ⟨j, hj, rfl⟩ := List.getElem_of_mem ((canonicalOrder_perm s.entries).mem_iff.2 he)
  refine ⟨j, hlen ▸ hj, ?_⟩
  rw [tget_writeRows _ _ _ (by omega), dif_pos ⟨Nat.zero_le j, hj⟩]
  rfl

/-- ASSIGN's loop writes no symbol of CT (R143). -/
theorem sym_assignRow (a : Assigner) (i j : Nat) : (tget (assignRow a i).ct j).sym = (tget a.ct j).sym := by
  rw [assignRow, tget_tset]
  split
  · rename_i h
    rw [h.1]
  · rfl

@[simp] theorem sym_codes (s : State) (j : Nat) : (tget s.codes.ct j).sym = (tget s.ct j).sym := by
  unfold State.codes
  induction s.k.toNat with
  | zero => rfl
  | succ n ih => rw [List.range_succ, List.foldl_append, List.foldl_cons, List.foldl_nil, sym_assignRow, ih]

theorem valid_mapRow (ct : Vector CodeEntry 255) (em : Vector MapEntry 256) (i : Nat) :
    (tget (mapRow ct em i) b.toNat).valid = true ↔ (tget ct i).sym = b ∨ (tget em b.toNat).valid = true := by
  by_cases h : (tget ct i).sym = b <;> simp [mapRow, tget_tset, BitVec.toNat_inj, h, b.isLt]

/-- ASSIGN marks the entry of every row's symbol (R143). -/
theorem valid_mapRows (ct : Vector CodeEntry 255) (em : Vector MapEntry 256) {n : Nat}
    (h : ∃ j < n, (tget ct j).sym = b) : (tget ((List.range n).foldl (mapRow ct) em) b.toNat).valid = true := by
  obtain ⟨j, hj, hb⟩ := h
  induction n with
  | zero => omega
  | succ n ih =>
    rw [List.range_succ, List.foldl_append, List.foldl_cons, List.foldl_nil, valid_mapRow]
    by_cases e : j = n
    · exact .inl (e ▸ hb)
    · exact .inr (ih (by omega))

end

section

variable {s t : State}

/-! ### Each instruction leaves the tables as the next phase expects them -/

theorem covered_accept (s : State) (d : Dir) : Covered (s.accept d) := Stocked.covered (.unused (.inr (.inl rfl)))

theorem covered_finish (s : State) : Covered s.finish := Stocked.covered (.unused (.inl rfl))

theorem covered_raise (s : State) (e : ErrorKind) : Covered (s.raise e) := Stocked.covered (.unused (.inl rfl))

/-- The tests of the count byte abort, or leave the rest to show (R160, R165). -/
theorem covered_withCount {k : Byte} {go : State → State} (hgo : k ≠ 0 → Covered (go { s with k := k })) :
    Covered (withCount k s go) := by
  obtain ⟨-, e⟩ | ⟨-, -, e⟩ | ⟨hk, -, e⟩ := withCount_cases k s go <;> rw [e]
  · exact covered_raise _ _
  · exact covered_raise _ _
  · exact hgo hk

theorem covered_command (h : Covered s) (d : Dir) (he : (if s.busy then .next s else .next (s.accept d) :
    Host.Outcome State Fault Refusal) = .next t) : Covered t := by
  split at he <;> cases he
  · exact h
  · exact covered_accept s d

theorem covered_init (he : execInit s = .next t) : Covered t := by
  cases he
  by_cases hd : s.dir = .compress
  · exact Stocked.covered (.cleared (if_pos hd) rfl fun x => tget_replicate x.isLt)
  · exact Stocked.covered (.unused (.inr (.inr (if_neg hd))))

/-- FREQ enters every byte of the extended message, the terminator at least (R114, R115). -/
theorem covered_freq (h : Covered s) (hp : s.phase = phFreq) (he : execFreq s = .next t) : Covered t := by
  obtain ⟨hk, hf⟩ := h.freq_clear hp
  obtain ⟨q, c, -, -, e⟩ | ⟨c, hc, e⟩ := execFreq_cases hk hf <;> (rw [e] at he; cases he)
  · exact covered_raise _ _
  · have hsym {b : Byte} (hb : b ∈ Contract.extended s.message) :
        ∃ j < c.addTerminator.k.toNat, (tget c.addTerminator.ent j).sym = b := by
      have hm : b ∈ c.addTerminator.symbols := by
        rw [hc.symbols_addTerminator]
        exact Contract.mem_firstOccurrences.2 hb
      simpa [Counter.symbols] using hm
    refine Stocked.covered (.entered (.inl rfl) ?_ fun _ b hb => exists_entry_iff.2 (hsym hb))
    intro h0
    change c.addTerminator.k = 0 at h0
    obtain ⟨j, hj, -⟩ := hsym (b := Config.term) (by simp [Contract.extended])
    rw [h0] at hj
    exact Nat.not_lt_zero j hj

theorem covered_build (h : Covered s) (hp : s.phase = phBuild) (he : execBuild s = .next t) : Covered t := by
  obtain ⟨r, d, e⟩ := execBuild_eq s
  rw [e] at he
  cases he
  exact Stocked.covered (.entered (.inr (.inl rfl)) (h.has_entries (by simp [State.inPhase, hp]))
    (h.in_entries (by simp [State.inPhase, hp])))

theorem covered_depth (h : Covered s) (hp : s.phase = phDepth) (he : execDepth s = .next t) : Covered t := by
  cases he
  refine Stocked.covered (.entered (.inr (.inr rfl)) (h.has_entries (by simp [State.inPhase, hp])) fun hd b hb => ?_)
  have hs := exists_entry_iff.1 (h.in_entries (by simp [State.inPhase, hp]) hd b hb)
  simpa [exists_entry_iff] using hs

theorem covered_sort (h : Covered s) (hp : s.phase = phSort) (he : execSort s = .next t) : Covered t := by
  cases he
  exact Stocked.covered (.sorted rfl (h.has_entries (by simp [State.inPhase, hp])) fun hd b hb =>
    exists_row_iff.2 (exists_row_of_sort (h.in_entries (by simp [State.inPhase, hp]) hd b hb)))

theorem covered_assign (h : Covered s) (hp : s.phase = phAssign) (he : execAssign s = .next t) : Covered t := by
  have hk : s.k ≠ 0 := h.has_entries (by simp [State.inPhase, hp])
  unfold execAssign at he
  dsimp only at he
  split at he <;> cases he
  · rename_i hd
    refine Stocked.covered (.mapped (.inl rfl) hk fun b hb => valid_mapRows _ _ ?_)
    simpa using exists_row_iff.1 (h.in_rows hp hd b hb)
  · exact Stocked.covered (.decoding rfl hk)

/-- The header writer leaves EM and K, whether or not it ends the phase (R156). -/
theorem covered_of_header (h : Covered s) (hp : s.phase = phHdrw) {m : Memory} {a : Nat} {p : PhaseCode}
    (hq : p = phHdrw ∨ p = phPack) : Covered { s with obuf := m, optr := a, phase := p } :=
  Stocked.covered (.mapped hq (h.has_entries (by simp [State.inPhase, hp]))
    (h.in_map (by simp [State.inPhase, hp])))

theorem covered_hdrw (h : Covered s) (hp : s.phase = phHdrw) (he : execHdrw s = .next t) : Covered t := by
  cases he
  exact covered_of_header h hp (.inr rfl)

theorem covered_pack (he : execPack s = .next t) : Covered t := by
  unfold execPack at he
  split at he <;> cases he
  exact covered_finish _

theorem covered_unpack (he : execUnpack s = .next t) : Covered t := by
  unfold execUnpack at he
  split at he <;> cases he
  · exact covered_finish _
  · exact covered_raise _ _

/-- The decoder's tables hold the header's entries, of which there is one at least (R160). -/
theorem covered_decoder_sort (hp : s.phase = phSort) (hd : s.dir = .decompress) (hk : s.k ≠ 0) : Covered s :=
  Stocked.covered (.entered (.inr (.inr hp)) hk fun hc => by rw [hd] at hc; cases hc)

theorem covered_hdrr (hi : Inv s) (hp : s.phase = phHdrr) (he : execHdrr s = .next t) : Covered t := by
  have hd : s.dir = .decompress := hi.decoder_dir (by simp [State.inPhase, hp])
  unfold execHdrr at he
  split at he <;> cases he
  · exact covered_raise _ _
  · exact covered_withCount fun hk => covered_decoder_sort rfl hd hk

theorem covered_hdrK {k : Byte} (h : Covered s) (hr : Runnable s (.hdrK k)) (he : exec (.hdrK k) s = .next t) :
    Covered t := by
  obtain ⟨hp, -, -, -⟩ | ⟨hp, -, -⟩ := hr
  · rw [execHdrK_hdrr hp] at he
    cases he
    exact covered_withCount fun _ => Stocked.covered (.unused (.inr (.inr hp)))
  · rw [execHdrK_hdrw hp] at he
    cases he
    exact covered_of_header h hp (endOfHeader_cases _ _ _ _)

theorem covered_hdrPair {sym len : Byte} (hi : Inv s) (h : Covered s) (hr : Runnable s (.hdrPair sym len))
    (he : exec (.hdrPair sym len) s = .next t) : Covered t := by
  obtain ⟨hp, hne, -, -⟩ | ⟨hp, -, -, -⟩ := hr
  · have hd : s.dir = .decompress := hi.decoder_dir (by simp [State.inPhase, hp])
    obtain ⟨-, hlt, -⟩ := (hi.iptr_hdrr hp).resolve_left hne
    have hk : s.k ≠ 0 := by
      intro h0
      rw [h0] at hlt
      exact hne (Nat.lt_one_iff.1 hlt)
    rw [execHdrPair_hdrr hp] at he
    cases he
    rcases endOfHeader_cases (s.iptr + 2) s.k phHdrr phSort with e | e
    · exact Stocked.covered (.unused (.inr (.inr e)))
    · exact covered_decoder_sort e hd hk
  · rw [execHdrPair_hdrw hp] at he
    cases he
    exact covered_of_header h hp (endOfHeader_cases _ _ _ _)

/-- Every instruction leaves the tables as the phase it leads to expects them, where a step can run it. -/
theorem exec_covered {i : Instr} (hr : Runnable s i) (hi : Inv s) (h : Covered s) (he : exec i s = .next t) :
    Covered t := by
  cases i with
  | compress => exact covered_command h .compress he
  | decompress => exact covered_command h .decompress he
  | idle => cases he; exact h
  | init => exact covered_init he
  | freq => exact covered_freq h hr he
  | build => exact covered_build h hr he
  | depth => exact covered_depth h hr he
  | sort => exact covered_sort h hr he
  | assign => exact covered_assign h hr he
  | hdrw => exact covered_hdrw h hr he
  | pack => exact covered_pack he
  | hdrr => exact covered_hdrr hi hr he
  | unpack => exact covered_unpack he
  | hdrK k => exact covered_hdrK h hr he
  | hdrPair sym len => exact covered_hdrPair hi h hr he

/-! ### Each host access leaves the tables -/

/-- The host writes ILEN and IBUF in IDLE alone, where no phase uses the tables (R73). -/
theorem covered_of_idle (hi : Inv s) (hb : ¬ s.busy) (ht : t.phase = s.phase) : Covered t :=
  Stocked.covered (.unused (.inl (ht.trans (not_not.1 (hi.busy_iff.not.1 hb)))))

theorem Covered.answer (h : Covered s) (v : Nat) : Covered (s.answer v) := { h with }

theorem Covered.answerFree (h : Covered s) (w : Nat) : Covered (s.answerFree w) := { h with }

theorem covered_hostReadObuf (h : Covered s) (a : Nat) : Covered (s.hostReadObuf a) := by
  unfold State.hostReadObuf
  split
  · exact h.answerFree 8
  · split
    · exact h.answer _
    · exact h.answerFree 8

theorem doAccess_covered (hi : Inv s) (h : Covered s) (e : Event) : Covered (doAccess e s) := by
  cases e with
  | core | field | writeCmd | writeStatus | writeOlen => exact h
  | readCmd | readStatus | readIlen | readIbuf => exact h.answer _
  | readObuf a => exact covered_hostReadObuf h a
  | reset => exact Stocked.covered (.unused (.inl rfl))
  | readOlen =>
    unfold doAccess
    dsimp only
    split
    · exact h.answerFree _
    · exact h.answer _
  | writeIlen | writeIbuf =>
    unfold doAccess
    dsimp only
    split
    · exact h
    · exact covered_of_idle hi ‹_› rfl

theorem hostAccess_covered (hi : Inv s) (h : Covered s) (e : Event) : Covered (hostAccess e s) := by
  unfold hostAccess
  split
  · exact doAccess_covered hi h e
  · exact h

end

/-- Settles O43: PHASE is no reserved code and PACK finds its entries, so the step answers a next state; by cases on what
it did, each instruction and each host access leaves the tables as the next phase expects them. -/
theorem everyStepIsSafe : Obligations.EveryStepIsSafe := by
  intro s hi hc
  obtain ⟨t, h⟩ := step_completes hi hc
  refine ⟨t, h, ?_⟩
  obtain ⟨i, hr, he⟩ | ⟨e, -, rfl⟩ := step_cases h
  · exact exec_covered hr (hi.of_sched _) (hc.of_sched _) he
  · exact hostAccess_covered (hi.of_sched _) (hc.of_sched _) e

end Sys2Proof.Machine

namespace Sys2Proof.Machine

open Sys2Proof

/-! ### The encoder against the decoder (R81, R82, R92, R96) -/

section

variable {i : Instr}

theorem encode_of_decodeCmd {v : Byte} (h : decodeCmd v = .ok i) : encode i = (.cmd, [v]) := by
  unfold decodeCmd at h
  split at h
  · subst_vars
    cases h
    rfl
  · split at h
    · subst_vars
      cases h
      rfl
    · cases h

theorem encode_of_decodePhase {c : PhaseCode} (h : decodePhase c = .ok i) : encode i = (.phase, [c.setWidth 8]) := by
  have hall : ∀ c : PhaseCode, ∀ i ∈ (decodePhase c).toOption, encode i = (.phase, [c.setWidth 8]) := by decide
  exact hall c i (congrArg Decoded.toOption h)

/-- Decoding what the encoder writes gives the instruction back, and does not look at what follows. -/
theorem decode_encode (i : Instr) (rest : List Byte) : decode (encode i).1 ((encode i).2 ++ rest) = .ok i := by
  cases i <;> rfl

/-- Bytes that decode to an instruction begin with its encoding, in its format. -/
theorem encode_of_decode {f : Format} {bs : List Byte} (h : decode f bs = .ok i) :
    f = (encode i).1 ∧ ∃ rest, bs = (encode i).2 ++ rest := by
  unfold decode at h
  split at h
  · rename_i v rest
    rw [encode_of_decodeCmd h]
    exact ⟨rfl, rest, rfl⟩
  · rename_i b rest
    split at h
    · rename_i hb
      have hwidth : (b.setWidth 4).setWidth 8 = b := by bv_omega
      rw [encode_of_decodePhase h, hwidth]
      exact ⟨rfl, rest, rfl⟩
    · cases h
  · cases h
    exact ⟨rfl, _, rfl⟩
  · cases h
    exact ⟨rfl, _, rfl⟩
  · cases h

end

/-- Settles O39: each instruction's bytes, and each format's decoder. -/
theorem decodeEncodeAgree : Obligations.DecodeEncodeAgree := ⟨decode_encode, fun _ _ _ => encode_of_decode⟩

/-- Settles O40: the decoder run on each word. -/
theorem tableWordsDecode : Obligations.TableWordsDecode := by
  unfold Obligations.TableWordsDecode
  decide

/-! ### A CMD write (R93, R196) -/

section

variable {s : State}

theorem decodeCmd_of_reserved {v : Byte} (h1 : v ≠ 0x01) (h2 : v ≠ 0x02) :
    decodeCmd v = .rejected (.reservedCmd v) := by
  rw [decodeCmd, if_neg h1, if_neg h2]

theorem execCompress_accepts (h : ¬ s.busy) : exec .compress s = .next (s.accept .compress) := if_neg h

theorem execDecompress_accepts (h : ¬ s.busy) : exec .decompress s = .next (s.accept .decompress) := if_neg h

end

/-- Settles O2: while a command runs every value is dropped; else the two commands are accepted and the decoder rejects
every other value. -/
theorem cmdWriteIsAcceptedOrDropped : Obligations.CmdWriteIsAcceptedOrDropped := by
  intro s v es
  by_cases hb : s.busy
  · rw [step_writeCmd_busy hb, if_neg fun h => h.1 hb, if_neg fun h => h.1 hb]
  · by_cases h1 : v = 0x01
    · rw [if_pos ⟨hb, h1⟩, step_of_run (fetch_of_writeCmd rfl (congrArg decodeCmd h1))]
      exact execCompress_accepts hb
    · rw [if_neg fun h => h1 h.2]
      by_cases h2 : v = 0x02
      · rw [if_pos ⟨hb, h2⟩, step_of_run (fetch_of_writeCmd rfl (congrArg decodeCmd h2))]
        exact execDecompress_accepts hb
      · rw [if_neg fun h => h2 h.2]
        refine step_of_dropped (e := .writeCmd v) ?_ rfl
        simp only [fetch, decodeCmd_of_reserved h1 h2]

end Sys2Proof.Machine

namespace Sys2Proof.Machine

open Sys2Proof

/-! ### The count byte and the pairs (R82, R156, R160) -/

section

variable {s : State}

theorem withCount_zero (s : State) (go : State → State) :
    withCount 0 s go = ({ s with k := 0 }).raise .invalidSymbolCount := rfl

theorem withCount_of_short {k : Byte} (hk : k ≠ 0) (h : s.ilen < payloadAddr k.toNat) (go : State → State) :
    withCount k s go = ({ s with k := k }).raise .truncatedHeader := (if_neg hk).trans (if_pos h)

theorem withCount_of_whole {k : Byte} (hk : k ≠ 0) (h : payloadAddr k.toNat ≤ s.ilen) (go : State → State) :
    withCount k s go = go { s with k := k } := (if_neg hk).trans (if_neg (Nat.not_lt.2 h))

/-- The header ends with its last pair (R67). -/
theorem endOfHeader_pairs {n : Nat} {k : Byte} (h : n ≤ k.toNat) (phase next : PhaseCode) :
    endOfHeader (payloadAddr n) k phase next = if n = k.toNat then next else phase := by
  have hend : payloadAddr k.toNat ≤ payloadAddr n ↔ n = k.toNat := by
    rw [payloadAddr, payloadAddr]
    omega
  simp only [endOfHeader, hend]

@[simp] theorem pairAt_symAddr (j : Nat) : pairAt (symAddr j) = j := by
  rw [pairAt, symAddr]
  omega

/-! A pair's bytes (R82, R156): the symbol, the length, and every other. -/

theorem symAddr_ne_lenAddr (j : Nat) : symAddr j ≠ lenAddr j := by
  rw [symAddr, lenAddr]
  omega

theorem lookup_writePair_sym (m : Memory) (j : Nat) (e : Entry) :
    Memory.lookup (writePair m j e) (symAddr j) = some e.sym :=
  (Memory.lookup_write_ne _ _ (symAddr_ne_lenAddr j).symm).trans (Memory.lookup_write_same _ _ _)

theorem lookup_writePair_len (m : Memory) (j : Nat) (e : Entry) :
    Memory.lookup (writePair m j e) (lenAddr j) = some e.len := Memory.lookup_write_same _ _ _

theorem lookup_writePair_ne (m : Memory) (e : Entry) {j a : Nat} (hs : a ≠ symAddr j) (hl : a ≠ lenAddr j) :
    Memory.lookup (writePair m j e) a = Memory.lookup m a :=
  (Memory.lookup_write_ne _ _ hl.symm).trans (Memory.lookup_write_ne _ _ hs.symm)

end

/-- Settles O31: in HDRR the three ways the count byte can go, in HDRW the byte at offset 0, after which the header ends
where it has no pair. -/
theorem countByteIsConsumedAndProduced : Obligations.CountByteIsConsumedAndProduced := by
  intro s k
  refine ⟨fun hp hk hle => ?_, fun hp hk => ?_, fun hp hk hlt => ?_, fun hp => ⟨_, execHdrK_hdrw hp k, ?_, ?_, ?_⟩⟩
  · rw [execHdrK_hdrr hp, withCount_of_whole hk hle]
  · subst hk
    rw [execHdrK_hdrr hp, withCount_zero]
    rfl
  · rw [execHdrK_hdrr hp, withCount_of_short hk hlt]
    rfl
  · have hend : endOfHeader 1 s.k phHdrw phPack = if s.k = 0 then phPack else phHdrw := by
      have hz : 0 = s.k.toNat ↔ s.k = 0 := by bv_omega
      exact (endOfHeader_pairs (Nat.zero_le s.k.toNat) phHdrw phPack).trans (by simp only [hz])
    rw [hend]
  · exact Memory.lookup_write_same _ _ _
  · exact fun a ha => Memory.lookup_write_ne _ _ ha.symm

/-- Settles O32: the pair at cursor 1 + 2j is entry j, or the two bytes from there on, and the header ends with the last
one. -/
theorem pairIsConsumedAndProduced : Obligations.PairIsConsumedAndProduced := by
  intro s sym len j hj
  have hend (phase next : PhaseCode) :
      endOfHeader (1 + 2 * j + 2) s.k phase next = if j + 1 = s.k.toNat then next else phase :=
    endOfHeader_pairs hj phase next
  have hat : pairAt (1 + 2 * j) = j := pairAt_symAddr j
  refine ⟨fun hp ho => ⟨_, execHdrPair_hdrr hp sym len, ?_, ?_, ?_⟩,
    fun hp ho => ⟨_, execHdrPair_hdrw hp sym len, ?_, ?_, ?_, ?_⟩⟩ <;> simp only [ho, hat]
  · rw [hend]
  · have := s.k.isLt
    exact tget_tset_same _ _ (by omega)
  · exact fun i hi => tget_tset_ne _ _ hi.symm
  · rw [hend]
  · exact lookup_writePair_sym s.obuf j ⟨sym, len⟩
  · exact lookup_writePair_len s.obuf j ⟨sym, len⟩
  · exact fun a hs hl => lookup_writePair_ne s.obuf ⟨sym, len⟩ hs hl

end Sys2Proof.Machine

namespace Sys2Proof.Machine

open Sys2Proof

/-! ### INIT and FREQ (R110 to R117) -/

theorem tget_clearMap (em : Vector MapEntry 256) {i : Nat} (h : i < 256) :
    tget (clearMap em) i = { tget em i with valid := false } := by
  simp [clearMap, tget_eq_getElem, h]

/-- Settles O14: each register and table INIT writes, read off its pseudocode. -/
theorem initClearsCommandState : Obligations.InitClearsCommandState :=
  fun s => ⟨_, rfl, rfl, fun x => tget_replicate x.isLt, fun x => tget_clearMap s.em x.isLt⟩

/-- The scan stops early at a byte 0 and nowhere else (R113). -/
theorem freqScan_stops_iff (bs : List Byte) (c : Counter) : (freqScan bs c).2 = true ↔ Config.term ∈ bs := by
  induction bs generalizing c with
  | nil => simp [freqScan]
  | cons b bs ih =>
    rw [freqScan, List.mem_cons]
    by_cases hcr : b = Config.cr
    · simp [hcr, ih, Contract.term_ne_cr]
    · by_cases hterm : b = Config.term
      · simp [hterm, Contract.term_ne_cr]
      · simp [hcr, hterm, Ne.symm hterm, ih]

/-! What entering symbols leaves of ENT: every length, and the entries from K on (R111). -/

/-- ENT of `d` is ENT of `c` with symbols written into entries below K. -/
structure Counter.Extends (c d : Counter) : Prop where
  k_le : c.k.toNat ≤ d.k.toNat
  len_eq : ∀ j, (tget d.ent j).len = (tget c.ent j).len
  ent_eq : ∀ j, d.k.toNat ≤ j → tget d.ent j = tget c.ent j

theorem Counter.Extends.refl (c : Counter) : c.Extends c := ⟨Nat.le_refl _, fun _ => rfl, fun _ _ => rfl⟩

theorem Counter.Extends.trans {c d e : Counter} (h : c.Extends d) (g : d.Extends e) : c.Extends e where
  k_le := h.k_le.trans g.k_le
  len_eq j := (g.len_eq j).trans (h.len_eq j)
  ent_eq j hj := (g.ent_eq j hj).trans (h.ent_eq j (g.k_le.trans hj))

theorem Counter.toNat_k_addEntry {c : Counter} (b : Byte) (h : c.k.toNat < 255) :
    (c.addEntry b).k.toNat = c.k.toNat + 1 := by
  have : (c.k + 1).toNat = c.k.toNat + 1 := by bv_omega
  exact this

theorem Counter.extends_addEntry {c : Counter} (b : Byte) (h : c.k.toNat < 255) : c.Extends (c.addEntry b) where
  k_le := by rw [Counter.toNat_k_addEntry b h]; exact Nat.le_succ _
  len_eq j := by
    rw [Counter.addEntry, tget_tset]
    split
    · rename_i e
      rw [e.1]
    · rfl
  ent_eq j hj := by
    rw [Counter.toNat_k_addEntry b h] at hj
    exact tget_tset_ne _ _ (by omega)

theorem Counter.extends_count {c : Counter} (b : Byte) (h : c.k.toNat < 255) : c.Extends (c.count b) := by
  unfold Counter.count
  split
  · exact { Counter.extends_addEntry b h with }
  · exact { Counter.Extends.refl c with }

/-- The scan only ever enters symbols: K never wraps, since at most 254 are counted (R7). -/
theorem freqScan_extends (bs : List Byte) {m : List Byte} {c : Counter} (h : Counted m c) :
    c.Extends (freqScan bs c).1 := by
  induction bs generalizing m c with
  | nil => exact .refl c
  | cons b bs ih =>
    rw [freqScan]
    by_cases hcr : b = Config.cr
    · rw [if_pos hcr]
      exact { ih h.skip_cr with }
    · rw [if_neg hcr]
      by_cases hterm : b = Config.term
      · rw [if_pos hterm]
        exact .refl c
      · rw [if_neg hterm]
        exact (Counter.extends_count b (Nat.lt_succ_of_le h.k_le)).trans (ih (h.count hcr hterm))

/-- The table INIT leaves counts the empty message. -/
theorem counted_start {s : State} (hk : s.k = 0) (hf : ∀ x : Byte, tget s.freq x.toNat = 0) :
    Counted [] { s.counter with iptr := 0 } where
  no_term := List.not_mem_nil
  iptr_eq := rfl
  symbols_eq := by simp [Counter.symbols, State.counter, hk, Contract.firstOccurrences, Contract.filterCr]
  freq_eq := hf

/-- FREQ from the tables INIT leaves, on a message without a byte 0: the whole message counted, ENT extended, then the
terminator (R111, R115). -/
theorem execFreq_of_no_term {s : State} (hk : s.k = 0) (hf : ∀ x : Byte, tget s.freq x.toNat = 0)
    (hm : Config.term ∉ s.message) :
    ∃ c, Counted s.message c ∧ s.counter.Extends c.addTerminator ∧
      execFreq s = .next { s.withCounter c.addTerminator with phase := phBuild } := by
  have h0 := counted_start hk hf
  have hext := freqScan_extends s.message h0
  have hstop := (freqScan_stops_iff s.message { s.counter with iptr := 0 }).not.2 hm
  obtain ⟨q, c, -, -, e⟩ | ⟨c, hc, e⟩ := freqScan_counted s.message h0 <;> rw [e] at hext hstop
  · exact absurd rfl hstop
  · have hlast : c.Extends c.addTerminator :=
      { Counter.extends_addEntry Config.term (Nat.lt_succ_of_le hc.k_le) with }
    exact ⟨c, hc, { hext.trans hlast with }, by rw [execFreq, e]⟩

theorem entries_withCounter (s : State) (c : Counter) : (s.withCounter c).entries.map Entry.sym = c.symbols := by
  simp [State.entries, Counter.symbols, State.withCounter]

/-- Settles O15: the scan has counted the message and extended ENT; the terminator makes it the extended message. -/
theorem freqCountsMessage : Obligations.FreqCountsMessage := by
  intro s hk hf hm
  obtain ⟨c, hc, hext, e⟩ := execFreq_of_no_term hk hf hm
  have hiptr : c.addTerminator.iptr = s.ilen := hc.iptr_eq.trans (State.length_inputFrom s 0)
  refine ⟨_, e, ?_, ?_, hc.freq_addTerminator, hext.len_eq, hext.ent_eq⟩
  · simp only [State.withCounter, hiptr]
  · exact (entries_withCounter s c.addTerminator).trans hc.symbols_addTerminator

/-! ### The extended message (R113 to R117) -/

namespace Contract

theorem count_term_extended {m : List Byte} (h : Config.term ∉ m) : (extended m).count Config.term = 1 := by
  simp [extended, count_term_filterCr h]

theorem count_cr_extended (m : List Byte) : (extended m).count Config.cr = 0 := by
  simp [extended, filterCr, List.count_eq_zero, term_ne_cr.symm]

theorem firstOccurrences_extended {m : List Byte} (h : Config.term ∉ m) :
    firstOccurrences (extended m) = firstOccurrences (filterCr m) ++ [Config.term] := by
  have hterm : Config.term ∉ firstOccurrences (filterCr m) :=
    fun hm => List.count_eq_zero.1 (count_term_filterCr h) (mem_firstOccurrences.1 hm)
  rw [extended, firstOccurrences_concat, if_neg hterm]

end Contract

/-- The counts of all 256 byte values add up to the length (R116). -/
theorem sum_byte_counts {m : List Byte} {f : Nat → Nat} (hf : ∀ x : Byte, f x.toNat = m.count x) :
    ((List.range 256).map f).sum = m.length := by
  have hcount : ∀ n ∈ List.range 256, f n = (m.map BitVec.toNat : Multiset Nat).count n := by
    intro n hn
    have e := hf (BitVec.ofNatLT n (List.mem_range.1 hn))
    rwa [← List.count_map_of_injective m BitVec.toNat fun _ _ => BitVec.eq_of_toNat_eq, ← Multiset.coe_count] at e
  have hbyte : ∀ n ∈ (m.map BitVec.toNat : Multiset Nat), n ∈ (List.range 256).toFinset := by
    intro n hn
    obtain ⟨b, -, rfl⟩ := List.mem_map.1 (Multiset.mem_coe.1 hn)
    exact List.mem_toFinset.2 (List.mem_range.2 b.isLt)
  rw [List.map_congr_left hcount, ← List.sum_toFinset _ List.nodup_range, Multiset.sum_count_eq_card hbyte,
    Multiset.coe_card, List.length_map]

/-- The last entry, where the symbols of ENT end with `b`. -/
theorem last_entry_of_symbols {s : State} {l : List Byte} {b : Byte} (h : s.entries.map Entry.sym = l ++ [b]) :
    s.k.toNat = l.length + 1 ∧ (tget s.ent l.length).sym = b := by
  have hk : s.k.toNat = l.length + 1 := by simpa using congrArg List.length h
  have hlast : (s.entries.map Entry.sym)[l.length]? = (l ++ [b])[l.length]? := congrArg (·[l.length]?) h
  exact ⟨hk, by simpa [State.entries, hk] using hlast⟩

/-- Settles O16: what O15 gives, symbols and counts of the extended message, has each property of R117. -/
theorem freqLeavesProperTable : Obligations.FreqLeavesProperTable := by
  intro s hk hf hm
  obtain ⟨t, he, -, hsym, hcount, -, -⟩ := freqCountsMessage s hk hf hm
  have hlist := hsym.trans (Contract.firstOccurrences_extended hm)
  obtain ⟨hkt, hlast⟩ := last_entry_of_symbols hlist
  have hfew := Contract.length_firstOccurrences_filterCr hm
  have hmem {x : Byte} : (∃ e ∈ t.entries, e.sym = x) ↔ x ∈ Contract.extended s.message := by
    rw [← Contract.mem_firstOccurrences, ← hsym, List.mem_map]
  refine ⟨t, he, by omega, by omega, ?_, ?_, fun e h => ?_, fun x h => ?_, ?_, ?_, ?_⟩
  · have hnodup := Contract.nodup_firstOccurrences (Contract.extended s.message)
    rw [← hsym] at hnodup
    exact List.pairwise_map.1 hnodup
  · rw [hkt, Nat.add_sub_cancel]
    exact hlast
  · rw [hcount]
    exact List.count_pos_iff.2 (hmem.1 ⟨e, h, rfl⟩)
  · rw [hcount, List.count_eq_zero, ← hmem]
    rintro ⟨e, h', rfl⟩
    exact h e h' rfl
  · exact (hcount Config.term).trans (Contract.count_term_extended hm)
  · exact (hcount Config.cr).trans (Contract.count_cr_extended s.message)
  · rw [sum_byte_counts hcount, Contract.extended, List.length_append, List.length_singleton]

end Sys2Proof.Machine

namespace Sys2Proof.Machine

open Sys2Proof

theorem State.toNat_k_pos {s : State} (hk : s.k ≠ 0) : 0 < s.k.toNat :=
  Nat.pos_of_ne_zero fun e => hk (BitVec.eq_of_toNat_eq e)

/-! ### The queue order (R122) -/

/-- A node's key, under the lexicographic order. -/
def Node.key (x : Node) : ℕ ×ₗ ℕ := toLex (x.weight, x.minsym.toNat)

theorem keyLt_iff (x y : Node) : keyLt x y = true ↔ x.key < y.key := by
  simp [keyLt, Node.key, Prod.Lex.toLex_lt_toLex, BitVec.lt_def]

theorem Node.weight_le_of_key_le {x y : Node} (h : x.key ≤ y.key) : x.weight ≤ y.weight := by
  rcases Prod.Lex.toLex_le_toLex.1 h with h | h
  · exact Nat.le_of_lt h
  · exact h.1.le

theorem Node.minsym_of_key_eq {x y : Node} (h : x.key = y.key) : x.minsym = y.minsym :=
  BitVec.eq_of_toNat_eq (congrArg Prod.snd (toLex.injective h))

section

variable {node : Vector Node 509} {pq : List NodeIx}

theorem pqMin_key_le {m : NodeIx} (h : pqMin node pq = some m) :
    ∀ i ∈ pq, (tget node m.toNat).key ≤ (tget node i.toNat).key := by
  induction pq generalizing m with
  | nil => simp
  | cons j js ih =>
    unfold pqMin at h
    split at h
    · rename_i hnone
      have hjs : js = [] := by
        by_contra hne
        obtain ⟨m', hm'⟩ := pqMin_isSome (node := node) hne
        simp [hm'] at hnone
      cases h
      simp [hjs]
    · rename_i m' hm'
      split at h
      · rename_i hlt
        cases h
        exact List.forall_mem_cons.2 ⟨((keyLt_iff _ _).1 hlt).le, ih hm'⟩
      · rename_i hge
        cases h
        exact List.forall_mem_cons.2 ⟨le_rfl, fun i hi => (not_lt.1 (mt (keyLt_iff _ _).2 hge)).trans (ih hm' i hi)⟩

/-- `popmin` on a queue with a member takes out one with the least key (R121, R122). -/
theorem popMin_of_ne_nil (h : pq ≠ []) : ∃ m ∈ pq, popMin node pq = some (m, pq.erase m) ∧
    ∀ i ∈ pq, (tget node m.toNat).key ≤ (tget node i.toNat).key := by
  obtain ⟨m, hm⟩ := pqMin_isSome (node := node) h
  exact ⟨m, pqMin_mem hm, by rw [popMin, hm], pqMin_key_le hm⟩

end

/-- A merge of a queue with two members puts a parent over the two lowest, in the order popped (R121). -/
theorem merge_pops_lowest {b : Builder} (h : 2 ≤ b.pq.length) :
    ∃ x y rest, b.pq.Perm (x :: y :: rest) ∧ merge b = addInternal b x y rest ∧
      (tget b.node x.toNat).key ≤ (tget b.node y.toNat).key ∧
      ∀ z ∈ rest, (tget b.node y.toNat).key ≤ (tget b.node z.toNat).key := by
  obtain ⟨x, hx, hpop, hxmin⟩ := popMin_of_ne_nil (node := b.node) (pq := b.pq) (by rintro e; simp [e] at h)
  have hlen : (b.pq.erase x).length = b.pq.length - 1 := List.length_erase_of_mem hx
  obtain ⟨y, hy, hpop', hymin⟩ := popMin_of_ne_nil (node := b.node) (pq := b.pq.erase x)
    (by rintro e; simp [e] at hlen; omega)
  exact ⟨x, y, (b.pq.erase x).erase y, (List.perm_cons_erase hx).trans ((List.perm_cons_erase hy).cons x),
    by simp only [merge, hpop, hpop'], hxmin y (List.mem_of_mem_erase hy),
    fun z hz => hymin z (List.mem_of_mem_erase hz)⟩

/-! ### The arena: which nodes have no parent yet -/

/-- The children of an internal node, as table indices. -/
def children (node : Vector Node 509) (i : Nat) : Finset ℕ := {(tget node i).c0.toNat, (tget node i).c1.toNat}

/-- The nodes below `i` that no internal node of `K .. i - 1` has for a child: what PQ holds before node `i` is made. -/
def openNodes (node : Vector Node 509) (k i : Nat) : Finset ℕ :=
  Finset.range i \ (Finset.Ico k i).biUnion (children node)

/-- The internal node over `x` and `y` in the place of an old entry of NODE: the five fields R121 writes. -/
def internalNode (node : Vector Node 509) (old : Node) (x y : NodeIx) : Node :=
  { old with
    leaf := false, c0 := x, c1 := y
    weight := (tget node x.toNat).weight + (tget node y.toNat).weight
    minsym := minByte (tget node x.toNat).minsym (tget node y.toNat).minsym }

/-- Node `i` is the parent of the two lowest keys among the nodes that have none at its time (R121). -/
structure MergedAt (old node : Vector Node 509) (k i : Nat) : Prop where
  entry : tget node i = internalNode node (tget old i) (tget node i).c0 (tget node i).c1
  zero_open : (tget node i).c0.toNat ∈ openNodes node k i
  one_open : (tget node i).c1.toNat ∈ openNodes node k i
  children_ne : (tget node i).c0 ≠ (tget node i).c1
  zero_lowest : (tget node (tget node i).c0.toNat).key ≤ (tget node (tget node i).c1.toNat).key
  one_lowest : ∀ z ∈ openNodes node k i, z ≠ (tget node i).c0.toNat → z ≠ (tget node i).c1.toNat →
    (tget node (tget node i).c1.toNat).key ≤ (tget node z).key

/-- NODE after BUILD has made the nodes below `n`: the leaves, a merge for each internal node, the rest as it was. -/
structure Arena (s : State) (node : Vector Node 509) (n : Nat) : Prop where
  leaves : ∀ j, j < s.k.toNat → tget node j = leafNode s.freq (tget s.ent j) (tget s.node j)
  merges : ∀ i, s.k.toNat ≤ i → i < n → MergedAt s.node node s.k.toNat i
  rest : ∀ i, n ≤ i → tget node i = tget s.node i

section

variable {old node node' : Vector Node 509} {k i z : Nat}

theorem mem_openNodes : z ∈ openNodes node k i ↔
    z < i ∧ ∀ j, k ≤ j → j < i → (tget node j).c0.toNat ≠ z ∧ (tget node j).c1.toNat ≠ z := by
  simp [openNodes, children, eq_comm (a := z)]

theorem lt_of_mem_openNodes (h : z ∈ openNodes node k i) : z < i := (mem_openNodes.1 h).1

theorem self_notMem_rest {x y : Nat} : i ∉ ((openNodes node k i).erase x).erase y :=
  fun h => (lt_of_mem_openNodes (Finset.mem_of_mem_erase (Finset.mem_of_mem_erase h))).false

theorem openNodes_start (node : Vector Node 509) (k : Nat) : openNodes node k k = Finset.range k := by
  simp [openNodes]

/-- A new node takes the place of its two children. -/
theorem openNodes_succ (hk : k ≤ i)
    (h : ∀ j, k ≤ j → j ≤ i → (tget node j).c0.toNat < j ∧ (tget node j).c1.toNat < j) :
    openNodes node k (i + 1) =
      insert i (((openNodes node k i).erase (tget node i).c0.toNat).erase (tget node i).c1.toNat) := by
  ext z
  simp only [mem_openNodes, Finset.mem_insert, Finset.mem_erase]
  constructor
  · rintro ⟨hz, hno⟩
    obtain rfl | hne := eq_or_ne z i
    · exact .inl rfl
    · obtain ⟨h0, h1⟩ := hno i hk (Nat.lt_succ_self i)
      exact .inr ⟨h1.symm, h0.symm, by omega, fun j hj hji => hno j hj (by omega)⟩
  · rintro (rfl | ⟨h1, h0, hz, hno⟩)
    · refine ⟨Nat.lt_succ_self z, fun j hj hjz => ?_⟩
      have := h j hj (by omega)
      omega
    · refine ⟨by omega, fun j hj hji => ?_⟩
      obtain rfl | hne := eq_or_ne j i
      · exact ⟨h0.symm, h1.symm⟩
      · exact hno j hj (by omega)

theorem openNodes_congr (h : ∀ j, j < i → tget node' j = tget node j) : openNodes node' k i = openNodes node k i := by
  ext z
  simp +contextual only [mem_openNodes, h]

theorem MergedAt.one_mem_erase (hm : MergedAt old node k i) :
    (tget node i).c1.toNat ∈ (openNodes node k i).erase (tget node i).c0.toNat :=
  Finset.mem_erase.2 ⟨fun e => hm.children_ne (BitVec.eq_of_toNat_eq e.symm), hm.one_open⟩

/-- No node that stays open is lighter than the "1" child. -/
theorem MergedAt.one_weight_le (hm : MergedAt old node k i)
    (hz : z ∈ (openNodes node k i).erase (tget node i).c0.toNat) :
    (tget node (tget node i).c1.toNat).weight ≤ (tget node z).weight := by
  obtain ⟨hz0, hz⟩ := Finset.mem_erase.1 hz
  obtain rfl | hz1 := eq_or_ne z (tget node i).c1.toNat
  · exact le_rfl
  · exact Node.weight_le_of_key_le (hm.one_lowest z hz hz0 hz1)

/-- No open node is lighter than the "0" child. -/
theorem MergedAt.zero_weight_le (hm : MergedAt old node k i) (hz : z ∈ openNodes node k i) :
    (tget node (tget node i).c0.toNat).weight ≤ (tget node z).weight := by
  obtain rfl | hz0 := eq_or_ne z (tget node i).c0.toNat
  · exact le_rfl
  · exact (Node.weight_le_of_key_le hm.zero_lowest).trans (hm.one_weight_le (Finset.mem_erase.2 ⟨hz0, hz⟩))

theorem MergedAt.congr (hm : MergedAt old node k i) (h : ∀ j, j ≤ i → tget node' j = tget node j) :
    MergedAt old node' k i := by
  have hopen : openNodes node' k i = openNodes node k i := openNodes_congr fun j hj => h j hj.le
  have hi := h i le_rfl
  have h0 := h _ (lt_of_mem_openNodes hm.zero_open).le
  have h1 := h _ (lt_of_mem_openNodes hm.one_open).le
  obtain ⟨entry, zero_open, one_open, children_ne, zero_lowest, one_lowest⟩ := hm
  constructor <;> simp only [hi, h0, h1, hopen, internalNode]
  · exact entry
  · exact zero_open
  · exact one_open
  · exact children_ne
  · exact zero_lowest
  · intro z hz
    rw [h z (lt_of_mem_openNodes hz).le]
    exact one_lowest z hz

end

section

variable {s : State} {node : Vector Node 509} {n i : Nat}

theorem Arena.children_lt (h : Arena s node n) {j : Nat} (hk : s.k.toNat ≤ j) (hj : j < n) :
    (tget node j).c0.toNat < j ∧ (tget node j).c1.toNat < j :=
  ⟨lt_of_mem_openNodes (h.merges j hk hj).zero_open, lt_of_mem_openNodes (h.merges j hk hj).one_open⟩

theorem Arena.openNodes_succ (h : Arena s node n) (hk : s.k.toNat ≤ i) (hi : i < n) :
    openNodes node s.k.toNat (i + 1) =
      insert i (((openNodes node s.k.toNat i).erase (tget node i).c0.toNat).erase (tget node i).c1.toNat) :=
  Machine.openNodes_succ hk fun _ hj hji => h.children_lt hj (by omega)

/-- Writing the parent of the two lowest open nodes at `n` makes the arena one node longer. -/
theorem Arena.extend (h : Arena s node n) (hk : s.k.toNat ≤ n) (hn : n < 509) {x y : NodeIx}
    (hx : x.toNat ∈ openNodes node s.k.toNat n) (hy : y.toNat ∈ openNodes node s.k.toNat n) (hxy : x ≠ y)
    (hle : (tget node x.toNat).key ≤ (tget node y.toNat).key)
    (hlow : ∀ z ∈ openNodes node s.k.toNat n, z ≠ x.toNat → z ≠ y.toNat → (tget node y.toNat).key ≤ (tget node z).key) :
    Arena s (tset node n (internalNode node (tget node n) x y)) (n + 1) ∧
      openNodes (tset node n (internalNode node (tget node n) x y)) s.k.toNat (n + 1) =
        insert n (((openNodes node s.k.toNat n).erase x.toNat).erase y.toNat) := by
  have hself : tget (tset node n (internalNode node (tget node n) x y)) n = internalNode node (tget node n) x y :=
    tget_tset_same _ _ hn
  have hother : ∀ j, j ≠ n → tget (tset node n (internalNode node (tget node n) x y)) j = tget node j :=
    fun j hj => tget_tset_ne _ _ hj.symm
  generalize tset node n (internalNode node (tget node n) x y) = node' at hself hother
  have hopen := openNodes_congr (k := s.k.toNat) fun j (hj : j < n) => hother j hj.ne
  have hx' := hother _ (lt_of_mem_openNodes hx).ne
  have hy' := hother _ (lt_of_mem_openNodes hy).ne
  have hc0 : (tget node' n).c0 = x := by rw [hself]; rfl
  have hc1 : (tget node' n).c1 = y := by rw [hself]; rfl
  have ha : Arena s node' (n + 1) := by
    refine ⟨fun j hj => (hother j (by omega)).trans (h.leaves j hj), fun i hi hin => ?_,
      fun i hi => (hother i (by omega)).trans (h.rest i (by omega))⟩
    obtain rfl | hne := eq_or_ne i n
    · constructor <;> simp only [hc0, hc1, hopen, hx', hy']
      · simpa only [internalNode, hx', hy', h.rest i le_rfl] using hself
      · exact hx
      · exact hy
      · exact hxy
      · exact hle
      · intro z hz
        rw [hother z (lt_of_mem_openNodes hz).ne]
        exact hlow z hz
    · exact (h.merges i hi (by omega)).congr fun j hj => hother j (by omega)
  exact ⟨ha, by rw [ha.openNodes_succ hk (Nat.lt_succ_self n), hc0, hc1, hopen]⟩

end

/-! ### BUILD makes the arena -/

/-- What holds between the merges of BUILD: PQ is the set of the nodes without a parent. -/
structure Builder.Merged (s : State) (b : Builder) : Prop where
  arena : Arena s b.node b.nn.toNat
  k_le : s.k.toNat ≤ b.nn.toNat
  nodup : b.pq.Nodup
  length : b.pq.length + b.nn.toNat = 2 * s.k.toNat
  mem_open : ∀ z, z ∈ openNodes b.node s.k.toNat b.nn.toNat ↔ ∃ i ∈ b.pq, i.toNat = z

section

variable {s : State} {b : Builder}

/-- The leaves, with `NN = K`. -/
theorem merged_leaves (s : State) :
    Builder.Merged s { addLeaves s.freq s.ent ⟨s.node, [], s.nn⟩ s.k.toNat with nn := s.k.setWidth 9 } := by
  have hk : s.k.toNat < 256 := s.k.isLt
  have hnn : (s.k.setWidth 9).toNat = s.k.toNat := by rw [BitVec.toNat_setWidth]; omega
  have hnode := addLeaves_node s.freq s.ent ⟨s.node, [], s.nn⟩ (n := s.k.toNat) (by omega)
  dsimp only
  rw [addLeaves_pq s.freq s.ent s.node s.nn (by omega)]
  refine ⟨?_, hnn.ge, ?_, ?_, fun z => ?_⟩ <;> simp only [hnn]
  · exact ⟨fun j hj => (hnode j).trans (if_pos hj), fun i hi hlt => by omega,
      fun i hi => (hnode i).trans (if_neg (by omega))⟩
  · refine List.Nodup.map_on (fun a ha c hc e => ?_) List.nodup_range
    have := List.mem_range.1 ha
    have := List.mem_range.1 hc
    bv_omega
  · rw [List.length_map, List.length_range, Nat.two_mul]
  · rw [openNodes_start, Finset.mem_range]
    constructor
    · exact fun hz => ⟨BitVec.ofNat 9 z, List.mem_map_of_mem (List.mem_range.2 hz), by bv_omega⟩
    · rintro ⟨i, hi, rfl⟩
      obtain ⟨j, hj, rfl⟩ := List.mem_map.1 hi
      have := List.mem_range.1 hj
      bv_omega

/-- The parent of the two lowest members takes their place in PQ and is the next node of the arena (R121). -/
theorem Builder.Merged.addInternal (h : b.Merged s) (hn : b.nn.toNat < 509) {x y : NodeIx} {rest : List NodeIx}
    (hperm : b.pq.Perm (x :: y :: rest)) (hle : (tget b.node x.toNat).key ≤ (tget b.node y.toNat).key)
    (hlow : ∀ z ∈ rest, (tget b.node y.toNat).key ≤ (tget b.node z.toNat).key) :
    (addInternal b x y rest).Merged s := by
  have hnn : (Machine.addInternal b x y rest).nn.toNat = b.nn.toNat + 1 := by
    show (b.nn + 1).toNat = b.nn.toNat + 1
    bv_omega
  have hpq : ∀ {i}, i ∈ b.pq ↔ i = x ∨ i = y ∨ i ∈ rest := fun {i} => by
    rw [hperm.mem_iff, List.mem_cons, List.mem_cons]
  have hopen : ∀ {i}, i ∈ b.pq → i.toNat ∈ openNodes b.node s.k.toNat b.nn.toNat :=
    fun hi => (h.mem_open _).2 ⟨_, hi, rfl⟩
  obtain ⟨⟨hxy, hx⟩, hy, hrest⟩ : (x ≠ y ∧ x ∉ rest) ∧ y ∉ rest ∧ rest.Nodup := by
    simpa only [List.nodup_cons, List.mem_cons, not_or] using hperm.nodup_iff.1 h.nodup
  have hnew : b.nn ∉ rest := fun hin => (lt_of_mem_openNodes (hopen (hpq.2 (.inr (.inr hin))))).false
  obtain ⟨ha, hnodes⟩ : Arena s (Machine.addInternal b x y rest).node (b.nn.toNat + 1) ∧
      openNodes (Machine.addInternal b x y rest).node s.k.toNat (b.nn.toNat + 1) =
        insert b.nn.toNat (((openNodes b.node s.k.toNat b.nn.toNat).erase x.toNat).erase y.toNat) := by
    refine h.arena.extend h.k_le hn (hopen (hpq.2 (.inl rfl))) (hopen (hpq.2 (.inr (.inl rfl)))) hxy hle
      fun z hz hzx hzy => ?_
    obtain ⟨i, hi, rfl⟩ := (h.mem_open z).1 hz
    obtain rfl | rfl | hi := hpq.1 hi
    · exact absurd rfl hzx
    · exact absurd rfl hzy
    · exact hlow i hi
  refine ⟨hnn.symm ▸ ha, h.k_le.trans (hnn ▸ Nat.le_succ _), ?_, ?_, fun z => ?_⟩
  · exact (pqInsert_perm hnew).nodup_iff.2 (List.nodup_cons.2 ⟨hnew, hrest⟩)
  · have h1 : (Machine.addInternal b x y rest).pq.length = rest.length + 1 := (pqInsert_perm hnew).length_eq
    have h2 : b.pq.length = rest.length + 2 := hperm.length_eq
    have h3 := h.length
    omega
  · rw [hnn, hnodes, Finset.mem_insert, Finset.mem_erase, Finset.mem_erase, h.mem_open]
    constructor
    · rintro (rfl | ⟨hzy, hzx, i, hi, rfl⟩)
      · exact ⟨b.nn, mem_pqInsert.2 (.inl rfl), rfl⟩
      · obtain rfl | rfl | hi := hpq.1 hi
        · exact absurd rfl hzx
        · exact absurd rfl hzy
        · exact ⟨i, mem_pqInsert.2 (.inr hi), rfl⟩
    · rintro ⟨i, hi, rfl⟩
      obtain rfl | hi := mem_pqInsert.1 hi
      · exact .inl rfl
      · exact .inr ⟨fun e => hy (BitVec.eq_of_toNat_eq e ▸ hi), fun e => hx (BitVec.eq_of_toNat_eq e ▸ hi), i,
          hpq.2 (.inr (.inr hi)), rfl⟩

/-- While fewer than K - 1 merges are made PQ has two members to merge (R123). -/
theorem Builder.Merged.merge (h : b.Merged s) (hn : b.nn.toNat + 1 < 2 * s.k.toNat) :
    (merge b).Merged s ∧ (merge b).nn.toNat = b.nn.toNat + 1 := by
  have hk : s.k.toNat < 256 := s.k.isLt
  have hlen := h.length
  obtain ⟨x, y, rest, hperm, hmerge, hle, hlow⟩ := merge_pops_lowest (b := b) (by omega)
  rw [hmerge]
  refine ⟨h.addInternal (by omega) hperm hle hlow, ?_⟩
  show (b.nn + 1).toNat = b.nn.toNat + 1
  bv_omega

theorem Builder.Merged.mergeTimes {n : Nat} (h : b.Merged s) (hn : b.nn.toNat + n < 2 * s.k.toNat) :
    (mergeTimes n b).Merged s ∧ (mergeTimes n b).nn.toNat = b.nn.toNat + n := by
  induction n generalizing b with
  | zero => exact ⟨h, rfl⟩
  | succ n ih =>
    obtain ⟨hm, hnn⟩ := h.merge (by omega)
    obtain ⟨hm', hnn'⟩ := ih hm (by omega)
    exact ⟨hm', by rw [Machine.mergeTimes, hnn', hnn]; omega⟩

/-- BUILD's K - 1 merges (R121, R123). -/
theorem merged_buildTree (hk : s.k ≠ 0) : s.buildTree.Merged s ∧ s.buildTree.nn.toNat = 2 * s.k.toNat - 1 := by
  have hk0 := State.toNat_k_pos hk
  have hlt : s.k.toNat < 256 := s.k.isLt
  have hnn : (s.k.setWidth 9).toNat = s.k.toNat := by rw [BitVec.toNat_setWidth]; omega
  obtain ⟨hm, hn⟩ := (merged_leaves s).mergeTimes (n := s.k.toNat - 1) (by dsimp only; omega)
  exact ⟨hm, hn.trans (by dsimp only; omega)⟩

end

/-! ### The finished arena is a tree (R128) -/

section

variable {s : State} {node : Vector Node 509} {n i : Nat}

/-- Each node below `n` is open there or is one child of one internal node. -/
theorem Arena.sum_range (h : Arena s node n) (hk : s.k.toNat ≤ i) (hi : i ≤ n) (f : ℕ → ℕ) :
    ∑ x ∈ Finset.range i, f x = ∑ x ∈ openNodes node s.k.toNat i, f x +
      ∑ j ∈ Finset.Ico s.k.toNat i, (f (tget node j).c0.toNat + f (tget node j).c1.toNat) := by
  induction i, hk using Nat.le_induction with
  | base => simp [openNodes_start]
  | succ i hki ih =>
    have hm := h.merges i hki hi
    rw [Finset.sum_range_succ, ih (by omega), h.openNodes_succ hki hi, Finset.sum_insert self_notMem_rest,
      Finset.sum_Ico_succ_top hki, ← Finset.add_sum_erase _ _ hm.zero_open, ← Finset.add_sum_erase _ _ hm.one_mem_erase]
    ring

/-- When K - 1 merges are made the last node alone has no parent. -/
theorem Arena.openNodes_last (h : Arena s node (2 * s.k.toNat - 1)) (hk : s.k ≠ 0) :
    openNodes node s.k.toNat (2 * s.k.toNat - 1) = {2 * s.k.toNat - 2} := by
  have hk0 := State.toNat_k_pos hk
  have hcard := h.sum_range (by omega) le_rfl (fun _ => 1)
  simp only [Finset.sum_const, Finset.card_range, Nat.card_Ico, smul_eq_mul, mul_one] at hcard
  have hlast : 2 * s.k.toNat - 2 ∈ openNodes node s.k.toNat (2 * s.k.toNat - 1) :=
    mem_openNodes.2 ⟨by omega, fun j hj hlt => by have := h.children_lt hj hlt; omega⟩
  obtain ⟨x, hx⟩ := Finset.card_eq_one.1 (by omega : (openNodes node s.k.toNat (2 * s.k.toNat - 1)).card = 1)
  rw [hx, Finset.mem_singleton] at hlast
  rw [hx, hlast]

/-- What is a child of a node is no child of an earlier one. -/
theorem Arena.no_earlier_parent (h : Arena s node n) {x j : Nat} (hi : s.k.toNat ≤ i) (hij : i < j) (hj : j < n)
    (hx : (tget node j).c0.toNat = x ∨ (tget node j).c1.toNat = x) :
    ¬ ((tget node i).c0.toNat = x ∨ (tget node i).c1.toNat = x) := by
  have hm := h.merges j (by omega) hj
  have hopen : x ∈ openNodes node s.k.toNat j := by
    rcases hx with rfl | rfl
    · exact hm.zero_open
    · exact hm.one_open
  exact not_or.2 ((mem_openNodes.1 hopen).2 i hi hij)

/-- The finished arena under its root is a tree (R33, R128). -/
theorem Arena.treeShaped {t : State} (h : Arena s t.node (2 * s.k.toNat - 1)) (htk : t.k = s.k) (hk : s.k ≠ 0)
    (hroot : t.root.toNat = 2 * s.k.toNat - 2) : TreeShaped t := by
  have hk0 := State.toNat_k_pos hk
  constructor <;> rw [htk]
  · exact hk
  · exact hroot
  · intro i hi hin
    obtain ⟨h0, h1⟩ := h.children_lt hi (by omega)
    exact ⟨h0, h1, (h.merges i hi (by omega)).children_ne⟩
  · intro x hx
    have hclosed : x ∉ openNodes t.node s.k.toNat (2 * s.k.toNat - 1) := by
      rw [h.openNodes_last hk, Finset.mem_singleton]
      omega
    obtain ⟨i, hi, hin, hxi⟩ : ∃ i, s.k.toNat ≤ i ∧ i < 2 * s.k.toNat - 1 ∧
        ((tget t.node i).c0.toNat = x ∨ (tget t.node i).c1.toNat = x) := by
      by_contra hno
      push Not at hno
      have hlt : x < 2 * s.k.toNat - 1 := by omega
      exact hclosed (mem_openNodes.2 ⟨hlt, hno⟩)
    refine ⟨i, ⟨hi, by omega, hxi⟩, fun j ⟨hj, hjn, hxj⟩ => ?_⟩
    rcases lt_trichotomy i j with hlt | rfl | hlt
    · exact absurd hxi (h.no_earlier_parent hi hlt (by omega) hxj)
    · rfl
    · exact absurd hxj (h.no_earlier_parent hj hlt hin hxi)

/-! ### Distinct symbols give distinct keys (R122) -/

theorem minByte_cases (a b : Byte) : minByte a b = a ∨ minByte a b = b := by
  unfold minByte
  split
  · exact .inl rfl
  · exact .inr rfl

theorem sym_injOn_of_distinctSymbols (hd : s.distinctSymbols) :
    Set.InjOn (fun j => (tget s.ent j).sym) (Finset.range s.k.toNat : Set ℕ) := by
  have hnodup : ((List.range s.k.toNat).map fun j => (tget s.ent j).sym).Nodup := by
    simpa [State.distinctSymbols, State.entries, List.pairwise_map, List.Nodup] using hd
  intro a ha c hc e
  exact List.inj_on_of_nodup_map hnodup (by simpa using ha) (by simpa using hc) e

/-- Among the nodes without a parent no two have the same minsym (R122). -/
theorem Arena.minsym_injOn (h : Arena s node n) (hd : s.distinctSymbols) (hk : s.k.toNat ≤ i) (hi : i ≤ n) :
    Set.InjOn (fun z => (tget node z).minsym) (openNodes node s.k.toNat i : Set ℕ) := by
  induction i, hk using Nat.le_induction with
  | base =>
    rw [openNodes_start]
    refine (sym_injOn_of_distinctSymbols hd).congr fun j hj => ?_
    rw [h.leaves j (by simpa using hj)]
    rfl
  | succ i hki ih =>
    have ih := ih (by omega)
    obtain ⟨hentry, h0, h1, -, -, -⟩ := h.merges i hki hi
    rw [h.openNodes_succ hki hi, Finset.coe_insert, Set.injOn_insert (Finset.mem_coe.not.2 self_notMem_rest)]
    refine ⟨ih.mono ?_, ?_⟩
    · exact_mod_cast (Finset.erase_subset _ _).trans (Finset.erase_subset _ _)
    · rintro ⟨z, hz, e⟩
      simp only [Finset.mem_coe, Finset.mem_erase] at hz
      obtain ⟨hz1, hz0, hz⟩ := hz
      have hmin : (tget node i).minsym =
        minByte (tget node (tget node i).c0.toNat).minsym (tget node (tget node i).c1.toNat).minsym :=
        congrArg Node.minsym hentry
      dsimp only at e
      rw [hmin] at e
      rcases minByte_cases (tget node (tget node i).c0.toNat).minsym (tget node (tget node i).c1.toNat).minsym
        with e' | e' <;> rw [e'] at e
      · exact hz0 (ih hz h0 e)
      · exact hz1 (ih hz h1 e)

/-- With distinct symbols the two merged nodes and the nodes that stay open come in strictly rising order of key. -/
theorem Arena.keyLt_of_key_le (h : Arena s node n) (hd : s.distinctSymbols) (hk : s.k.toNat ≤ i) (hi : i ≤ n)
    {x y : Nat} (hx : x ∈ openNodes node s.k.toNat i) (hy : y ∈ openNodes node s.k.toNat i) (hxy : x ≠ y)
    (hle : (tget node x).key ≤ (tget node y).key) : keyLt (tget node x) (tget node y) = true :=
  (keyLt_iff _ _).2 (hle.lt_of_ne fun e => hxy (h.minsym_injOn hd hk hi hx hy (Node.minsym_of_key_eq e)))

end

/-! ### BUILD as a whole -/

/-- BUILD on at least one entry, whatever its symbols: a tree over the leaves, made by merging the two lowest keys, PQ
the root alone (R121). -/
theorem exec_build {s : State} (hk : s.k ≠ 0) :
    ∃ t, exec .build s = .next t ∧
      t = { s with node := t.node, pq := [t.root], nn := t.nn, root := t.root, phase := phDepth } ∧
      t.nn.toNat = 2 * s.k.toNat - 1 ∧ TreeShaped t ∧ Arena s t.node (2 * s.k.toNat - 1) := by
  have hk0 := State.toNat_k_pos hk
  obtain ⟨hm, hnn⟩ := merged_buildTree hk
  have hlen := hm.length
  have harena := hm.arena
  obtain ⟨r, hr⟩ : ∃ r, s.buildTree.pq = [r] := List.length_eq_one_iff.1 (by omega)
  rw [hnn] at harena
  have hroot : r.toNat = 2 * s.k.toNat - 2 := by
    have hopen := (hm.mem_open r.toNat).2 ⟨r, by simp [hr], rfl⟩
    rwa [hnn, harena.openNodes_last hk, Finset.mem_singleton] at hopen
  have hexec : exec .build s = .next { s.withBuilder s.buildTree with root := r, phase := phDepth } := by
    show execBuild s = _
    simp only [execBuild, hr]
  exact ⟨_, hexec, by simp [State.withBuilder, hr], hnn, Arena.treeShaped (s := s) harena rfl hk hroot, harena⟩

/-- Settles O18: the arena BUILD leaves merges lowest keys, strictly where the symbols are distinct. -/
theorem buildMergesLowestKeys : Obligations.BuildMergesLowestKeys := by
  intro s hk hd
  obtain ⟨t, he, heq, hnn, htree, harena⟩ := exec_build hk
  refine ⟨t, he, heq, hnn, htree, harena.leaves, fun i hi hin => ?_, harena.rest⟩
  have hk0 := State.toNat_k_pos hk
  have hlt : i < 2 * s.k.toNat - 1 := by omega
  obtain ⟨hentry, h0, h1, hne, hle, hlow⟩ := harena.merges i hi hlt
  refine ⟨hentry, ?_, fun z hz hopen hz0 hz1 => ?_⟩
  · exact harena.keyLt_of_key_le hd hi hlt.le h0 h1 (fun e => hne (BitVec.eq_of_toNat_eq e)) hle
  · have hz := mem_openNodes.2 ⟨hz, hopen⟩
    exact harena.keyLt_of_key_le hd hi hlt.le h1 hz hz1.symm (hlow z hz hz0 hz1)

end Sys2Proof.Machine

namespace Sys2Proof.Machine

open Sys2Proof

/-! ### Lengths under the Kraft inequality (R129) -/

namespace Huffman

/-- The Kraft sum of the lengths of the nodes in `S`. -/
def kraftSum (S : Finset ℕ) (len : ℕ → ℕ) : ℚ := ∑ j ∈ S, (1 / 2 : ℚ) ^ len j

/-- What the lengths of the nodes in `S` cost: the sum of weight times length. -/
def cost (S : Finset ℕ) (w len : ℕ → ℕ) : ℕ := ∑ j ∈ S, w j * len j

section

variable {S : Finset ℕ} {w len : ℕ → ℕ} {x y : ℕ}

theorem kraftSum_erase (hx : x ∈ S) : kraftSum S len = (1 / 2 : ℚ) ^ len x + kraftSum (S.erase x) len :=
  (Finset.add_sum_erase S _ hx).symm

theorem cost_erase (hx : x ∈ S) : cost S w len = w x * len x + cost (S.erase x) w len :=
  (Finset.add_sum_erase S _ hx).symm

theorem kraftSum_congr {len' : ℕ → ℕ} (h : ∀ j ∈ S, len' j = len j) : kraftSum S len' = kraftSum S len :=
  Finset.sum_congr rfl fun j hj => by rw [h j hj]

theorem cost_congr {len' : ℕ → ℕ} (h : ∀ j ∈ S, len' j = len j) : cost S w len' = cost S w len :=
  Finset.sum_congr rfl fun j hj => by rw [h j hj]

/-- Exchanging the lengths of two nodes keeps the Kraft sum. -/
theorem kraftSum_swap (hx : x ∈ S) (hy : y ∈ S) : kraftSum S (len ∘ Equiv.swap x y) = kraftSum S len := by
  refine Equiv.Perm.sum_comp (Equiv.swap x y) S (fun j => (1 / 2 : ℚ) ^ len j) fun j hj => ?_
  obtain ⟨-, rfl | rfl⟩ := Equiv.swap_apply_ne_self_iff.1 hj
  · exact hx
  · exact hy

/-- Giving the longer length to the lighter node costs no more. -/
theorem cost_swap_le (hx : x ∈ S) (hy : y ∈ S) (hw : w x ≤ w y) (hlen : len x ≤ len y) :
    cost S w (len ∘ Equiv.swap x y) ≤ cost S w len := by
  obtain rfl | hne := eq_or_ne x y
  · simp
  have hy' : y ∈ S.erase x := Finset.mem_erase.2 ⟨hne.symm, hy⟩
  have hrest : cost ((S.erase x).erase y) w (len ∘ Equiv.swap x y) = cost ((S.erase x).erase y) w len := by
    refine cost_congr fun j hj => ?_
    simp only [Finset.mem_erase] at hj
    exact congrArg len (Equiv.swap_apply_of_ne_of_ne hj.2.1 hj.1)
  rw [cost_erase hx, cost_erase hy', cost_erase hx, cost_erase hy', hrest, ← Nat.add_assoc, ← Nat.add_assoc]
  simpa using mul_add_mul_le_mul_add_mul hw hlen

/-- A lightest node of `S` may take the greatest length, by an exchange inside `S`. -/
theorem exists_swap_longest (hx : x ∈ S) (hw : ∀ j ∈ S, w x ≤ w j) :
    ∃ a ∈ S, cost S w (len ∘ Equiv.swap x a) ≤ cost S w len ∧
      ∀ j ∈ S, (len ∘ Equiv.swap x a) j ≤ (len ∘ Equiv.swap x a) x := by
  obtain ⟨a, ha, hmax⟩ := S.exists_max_image len ⟨x, hx⟩
  refine ⟨a, ha, cost_swap_le hx ha (hw a ha) (hmax x hx), fun j hj => ?_⟩
  simp only [Function.comp_apply, Equiv.swap_apply_left]
  refine hmax _ ?_
  rw [Equiv.swap_apply_def]
  split_ifs
  · exact ha
  · exact hx
  · exact hj

/-- The two lightest nodes may take the two greatest lengths. -/
theorem exists_longest_pair (hx : x ∈ S) (hy : y ∈ S.erase x) (hwx : ∀ j ∈ S, w x ≤ w j)
    (hwy : ∀ j ∈ S.erase x, w y ≤ w j) :
    ∃ len', kraftSum S len' = kraftSum S len ∧ cost S w len' ≤ cost S w len ∧ len' y ≤ len' x ∧
      ∀ j ∈ S.erase x, len' j ≤ len' y := by
  obtain ⟨a, ha, hca, hlx⟩ := exists_swap_longest (len := len) hx hwx
  obtain ⟨b, hb, hcb, hly⟩ := exists_swap_longest (len := len ∘ Equiv.swap x a) hy hwy
  have hbS : b ∈ S := Finset.mem_of_mem_erase hb
  have hkeep : Equiv.swap y b x = x :=
    Equiv.swap_apply_of_ne_of_ne (Finset.ne_of_mem_erase hy).symm (Finset.ne_of_mem_erase hb).symm
  refine ⟨(len ∘ Equiv.swap x a) ∘ Equiv.swap y b, ?_, ?_, ?_, hly⟩
  · rw [kraftSum_swap (Finset.mem_of_mem_erase hy) hbS, kraftSum_swap hx ha]
  · rw [cost_erase hx] at hca ⊢
    rw [Function.comp_apply, hkeep]
    omega
  · simpa [hkeep] using hlx b hbS

/-- Lengths of at most `m` that leave room for a longer one leave room for one of `m`: their Kraft sum is a multiple of
`1 / 2 ^ m`. -/
theorem kraftSum_add_shorter {m n : ℕ} (hm : ∀ j ∈ S, len j ≤ m) (h : (1 / 2 : ℚ) ^ n + kraftSum S len ≤ 1) :
    (1 / 2 : ℚ) ^ m + kraftSum S len ≤ 1 := by
  have hsum : kraftSum S len = (∑ j ∈ S, 2 ^ (m - len j) : ℕ) / 2 ^ m := by
    rw [kraftSum, Nat.cast_sum, Finset.sum_div]
    refine Finset.sum_congr rfl fun j hj => ?_
    rw [Nat.cast_pow, Nat.cast_ofNat, pow_sub₀ _ two_ne_zero (hm j hj), one_div, inv_pow]
    field_simp
  have hlt : kraftSum S len < 1 := by linarith [show (0 : ℚ) < (1 / 2) ^ n by positivity]
  rw [hsum, div_lt_one (by positivity)] at hlt
  have hle : (∑ j ∈ S, 2 ^ (m - len j)) + 1 ≤ 2 ^ m := by exact_mod_cast hlt
  rw [hsum, one_div, inv_pow, inv_eq_one_div, ← add_div, div_le_one (by positivity)]
  exact_mod_cast (Nat.add_comm _ _).trans_le hle

/-- Merging the two lightest nodes `x` and `y` of `S` into a new node `z` loses nothing: lengths for `S` give lengths
for the merged set that cost less by at least the weight of `z` (R121, R129). -/
theorem exists_merged_lengths {z : ℕ} (hx : x ∈ S) (hy : y ∈ S.erase x) (hz : z ∉ S) (hwx : ∀ j ∈ S, w x ≤ w j)
    (hwy : ∀ j ∈ S.erase x, w y ≤ w j) (hwz : w z = w x + w y) (hk : kraftSum S len ≤ 1) :
    ∃ len', kraftSum (insert z ((S.erase x).erase y)) len' ≤ 1 ∧
      cost (insert z ((S.erase x).erase y)) w len' + w z ≤ cost S w len := by
  obtain ⟨l, hkl, hcl, hyx, hlong⟩ := exists_longest_pair (len := len) hx hy hwx hwy
  have hz' : z ∉ (S.erase x).erase y := fun h => hz (Finset.mem_of_mem_erase (Finset.mem_of_mem_erase h))
  have hkeep : ∀ j ∈ (S.erase x).erase y, Function.update l z (l y - 1) j = l j :=
    fun j hj => Function.update_of_ne (ne_of_mem_of_not_mem hj hz') _ _
  have hshort : (1 / 2 : ℚ) ^ l y + ((1 / 2) ^ l y + kraftSum ((S.erase x).erase y) l) ≤ 1 := by
    rw [← kraftSum_erase hy]
    refine kraftSum_add_shorter hlong (n := l x) ?_
    rwa [← kraftSum_erase hx, hkl]
  have hpos : l y ≠ 0 := by
    intro h0
    have hnn : 0 ≤ kraftSum ((S.erase x).erase y) l := Finset.sum_nonneg fun j _ => by positivity
    rw [h0, pow_zero] at hshort
    linarith
  obtain ⟨m, hm⟩ := Nat.exists_eq_add_one_of_ne_zero hpos
  refine ⟨Function.update l z (l y - 1), ?_, ?_⟩
  · rw [kraftSum_erase (Finset.mem_insert_self z _), Finset.erase_insert hz', kraftSum_congr hkeep,
      Function.update_self, hm, Nat.add_sub_cancel]
    rw [hm, pow_succ] at hshort
    linarith
  · rw [cost_erase hx, cost_erase hy] at hcl
    rw [cost_erase (Finset.mem_insert_self z _), Finset.erase_insert hz', cost_congr hkeep, Function.update_self, hwz]
    have hcx : w x * l y ≤ w x * l x := Nat.mul_le_mul_left _ hyx
    calc (w x + w y) * (l y - 1) + cost ((S.erase x).erase y) w l + (w x + w y)
        = w x * l y + (w y * l y + cost ((S.erase x).erase y) w l) := by rw [hm, Nat.add_sub_cancel]; ring
      _ ≤ cost S w len := by omega

end

end Huffman
end Sys2Proof.Machine

namespace Sys2Proof.Machine

open Sys2Proof

/-! ### DEPTH on a tree (R136, R137) -/

theorem mem_children {node : Vector Node 509} {i c : Nat} :
    c ∈ children node i ↔ (tget node i).c0.toNat = c ∨ (tget node i).c1.toNat = c := by
  simp [children, eq_comm (a := c)]

section

variable {s : State}

theorem TreeShaped.lt_of_mem_children (h : TreeShaped s) {i c : Nat} (hk : s.k.toNat ≤ i) (hi : i ≤ 2 * s.k.toNat - 2)
    (hc : c ∈ children s.node i) : c < i := by
  obtain ⟨h0, h1, -⟩ := h.child_before i hk hi
  rcases mem_children.1 hc with rfl | rfl
  · exact h0
  · exact h1

theorem TreeShaped.parent_unique (h : TreeShaped s) {i j c : Nat} (hki : s.k.toNat ≤ i) (hi : i ≤ 2 * s.k.toNat - 2)
    (hkj : s.k.toNat ≤ j) (hj : j ≤ 2 * s.k.toNat - 2) (hci : c ∈ children s.node i) (hcj : c ∈ children s.node j) :
    i = j := by
  have hlt := h.lt_of_mem_children hki hi hci
  obtain ⟨p, -, hp⟩ := h.one_parent c (by omega)
  rw [hp i ⟨hki, hi, mem_children.1 hci⟩, hp j ⟨hkj, hj, mem_children.1 hcj⟩]

end

section

variable {node : Vector Node 509}

theorem tget_setDepth (node : Vector Node 509) {i : NodeIx} (hi : i.toNat < 509) (d : Byte) (j : Nat) :
    tget (setDepth node i d) j = if i.toNat = j then { tget node j with depth := d } else tget node j := by
  rw [setDepth, tget_tset]
  by_cases h : i.toNat = j
  · rw [if_pos ⟨h, hi⟩, if_pos h, h]
  · rw [if_neg (fun hc => h hc.1), if_neg h]

/-- One turn of DEPTH's loop writes the depths of the two children. -/
theorem tget_pushDepth {i : Nat} (h : ∀ c ∈ children node i, c < i) (hi : i < 509) (j : Nat) :
    tget (pushDepth node i) j =
      if j ∈ children node i then { tget node j with depth := (tget node i).depth + 1 } else tget node j := by
  have h0 := h _ (mem_children.2 (.inl rfl))
  have h1 := h _ (mem_children.2 (.inr rfl))
  have hself : tget (setDepth node (tget node i).c0 ((tget node i).depth + 1)) i = tget node i := by
    rw [tget_setDepth _ (by omega), if_neg h0.ne]
  rw [pushDepth, hself, tget_setDepth _ (by omega), tget_setDepth _ (by omega)]
  simp only [mem_children]
  by_cases hc0 : (tget node i).c0.toNat = j <;> by_cases hc1 : (tget node i).c1.toNat = j <;> simp [hc0, hc1]

end

/-- NODE in DEPTH's loop when the nodes from `m` up have had their turn: their children are one deeper than they are,
and depths below `2K - 1` alone are written. -/
structure Pushed (s : State) (node : Vector Node 509) (m : Nat) : Prop where
  depth_only : ∀ i, tget node i = { tget s.node i with depth := (tget node i).depth }
  rest : ∀ i, 2 * s.k.toNat - 1 ≤ i → tget node i = tget s.node i
  root_zero : (tget node s.root.toNat).depth = 0
  child_deeper : ∀ i, m ≤ i → i ≤ 2 * s.k.toNat - 2 → ∀ c ∈ children s.node i,
    (tget node c).depth = (tget node i).depth + 1

section

variable {s : State} {node : Vector Node 509}

theorem Pushed.children_eq {m : Nat} (h : Pushed s node m) (i : Nat) : children node i = children s.node i := by
  rw [children, h.depth_only i, children]

theorem pushed_root (ht : TreeShaped s) : Pushed s (setDepth s.node s.root 0) (2 * s.k.toNat - 1) := by
  have hk0 := State.toNat_k_pos ht.has_leaf
  have hk : s.k.toNat < 256 := s.k.isLt
  have hroot := ht.root_last
  have hset := tget_setDepth s.node (i := s.root) (by omega) 0
  refine ⟨fun i => ?_, fun i hi => ?_, ?_, fun i hi hin => by omega⟩
  · rw [hset]
    split <;> rfl
  · rw [hset, if_neg (by omega)]
  · rw [hset, if_pos rfl]

theorem Pushed.pushDepth {i : Nat} (h : Pushed s node (i + 1)) (ht : TreeShaped s) (hk : s.k.toNat ≤ i)
    (hi : i ≤ 2 * s.k.toNat - 2) : Pushed s (pushDepth node i) i := by
  have hlt : s.k.toNat < 256 := s.k.isLt
  have hbelow : ∀ c ∈ children s.node i, c < i := fun c hc => ht.lt_of_mem_children hk hi hc
  have hpush := tget_pushDepth (node := node) (i := i) (by rwa [h.children_eq]) (by omega)
  rw [h.children_eq] at hpush
  have hkeep : ∀ j, i ≤ j → tget (Machine.pushDepth node i) j = tget node j := fun j hj => by
    rw [hpush, if_neg fun hc => (hbelow j hc).not_ge hj]
  refine ⟨fun j => ?_, fun j hj => ?_, ?_, fun j hij hj c hc => ?_⟩
  · rw [hpush]
    split
    · rw [h.depth_only j]
    · exact h.depth_only j
  · rw [hkeep j (by omega), h.rest j hj]
  · rw [hkeep _ (ht.root_last ▸ hi), h.root_zero]
  · rw [hkeep j hij, hpush]
    obtain rfl | hne := eq_or_ne i j
    · rw [if_pos hc]
    · rw [if_neg fun hci => hne (ht.parent_unique hk hi (by omega) hj hci hc)]
      exact h.child_deeper j (by omega) hj c hc

/-- DEPTH's loops (R136). -/
theorem pushed_depths (ht : TreeShaped s) : Pushed s s.depths s.k.toNat := by
  have hk0 := State.toNat_k_pos ht.has_leaf
  have hloop : ∀ n, n ≤ s.k.toNat - 1 →
      Pushed s (((List.range n).map fun t => 2 * s.k.toNat - 2 - t).foldl Machine.pushDepth (setDepth s.node s.root 0))
        (2 * s.k.toNat - 1 - n) := by
    intro n hn
    induction n with
    | zero => exact pushed_root ht
    | succ n ih =>
      rw [List.range_succ, List.map_append, List.foldl_append]
      have e : 2 * s.k.toNat - 1 - (n + 1) = 2 * s.k.toNat - 2 - n := by omega
      have e' : 2 * s.k.toNat - 1 - n = 2 * s.k.toNat - 2 - n + 1 := by omega
      rw [e]
      exact (e' ▸ ih (by omega)).pushDepth ht (by omega) (by omega)
  have e : 2 * s.k.toNat - 1 - (s.k.toNat - 1) = s.k.toNat := by omega
  exact e ▸ hloop _ le_rfl

/-- An internal node's depth is at most its distance from the root's index: every parent stands above its children. -/
theorem Pushed.depth_le (h : Pushed s node s.k.toNat) (ht : TreeShaped s) {i : Nat} (hk : s.k.toNat ≤ i)
    (hi : i ≤ 2 * s.k.toNat - 2) : (tget node i).depth.toNat ≤ 2 * s.k.toNat - 2 - i := by
  have hlt : s.k.toNat < 256 := s.k.isLt
  induction hn : 2 * s.k.toNat - 2 - i using Nat.strong_induction_on generalizing i with
  | _ n ih =>
    obtain hroot | hbelow := hi.eq_or_lt
    · rw [hroot, ← ht.root_last, h.root_zero]
      exact Nat.zero_le n
    · obtain ⟨p, ⟨hkp, hp, hc⟩, -⟩ := ht.one_parent i hbelow
      have hip := ht.lt_of_mem_children hkp hp (mem_children.2 hc)
      have hdp := ih _ (by omega) hkp hp rfl
      rw [h.child_deeper p hkp hp i (mem_children.2 hc)]
      bv_omega

/-- No depth overflows its byte (R136, R139). -/
theorem Pushed.toNat_child_depth (h : Pushed s node s.k.toNat) (ht : TreeShaped s) {i c : Nat} (hk : s.k.toNat ≤ i)
    (hi : i ≤ 2 * s.k.toNat - 2) (hc : c ∈ children s.node i) :
    (tget node c).depth.toNat = (tget node i).depth.toNat + 1 := by
  have hlt : s.k.toNat < 256 := s.k.isLt
  have hd := h.depth_le ht hk hi
  rw [h.child_deeper i hk hi c hc]
  bv_omega

end

theorem tget_setLen (ent : Vector Entry 255) {j : Nat} (hj : j < 255) (v : Byte) (i : Nat) :
    tget (setLen ent j v) i = if j = i then ⟨(tget ent i).sym, v⟩ else tget ent i := by
  rw [setLen, tget_tset]
  by_cases h : j = i
  · rw [if_pos ⟨h, hj⟩, if_pos h, h]
  · rw [if_neg (fun hc => h hc.1), if_neg h]

/-- Each entry's length is its leaf's depth, or 1 where there is one entry (R136, R137). -/
theorem tget_assignLengths (node : Vector Node 509) {k : Nat} (ent : Vector Entry 255) (hk : k ≤ 255) (i : Nat) :
    tget (assignLengths node k ent) i =
      if i < k then ⟨(tget ent i).sym, if k = 1 then 1 else (tget node i).depth⟩ else tget ent i := by
  have hloop : tget ((List.range k).foldl (fun ent j => setLen ent j (tget node j).depth) ent) i =
      if i < k then ⟨(tget ent i).sym, (tget node i).depth⟩ else tget ent i := by
    induction k with
    | zero => simp
    | succ k ih =>
      rw [List.range_succ, List.foldl_append, List.foldl_cons, List.foldl_nil, tget_setLen _ (by omega), ih (by omega)]
      obtain rfl | hne := eq_or_ne k i
      · simp
      · rw [if_neg hne]
        exact if_congr (by omega) rfl rfl
  unfold assignLengths
  dsimp only
  by_cases h1 : k = 1
  · rw [if_pos h1, tget_setLen _ (by omega), hloop, h1]
    obtain rfl | hne := eq_or_ne 0 i
    · simp
    · simp [hne, show ¬ i < 1 by omega]
  · rw [if_neg h1, if_neg h1, hloop]

/-! ### The lengths are optimal (R129) -/

section

variable {s : State} {node : Vector Node 509}

/-- The leaves' weights times their depths add up to the weights of the internal nodes. -/
theorem Arena.sum_weight_depth (h : Arena s node (2 * s.k.toNat - 1)) (hk : s.k ≠ 0) {d : ℕ → ℕ}
    (hroot : d (2 * s.k.toNat - 2) = 0)
    (hd : ∀ i, s.k.toNat ≤ i → i < 2 * s.k.toNat - 1 → ∀ c ∈ children node i, d c = d i + 1) :
    ∑ j ∈ Finset.range s.k.toNat, (tget node j).weight * d j =
      ∑ i ∈ Finset.Ico s.k.toNat (2 * s.k.toNat - 1), (tget node i).weight := by
  have hk0 := State.toNat_k_pos hk
  have hkn : s.k.toNat ≤ 2 * s.k.toNat - 1 := by omega
  have hsum := h.sum_range hkn le_rfl (fun x => (tget node x).weight * d x)
  have hchildren : ∀ i ∈ Finset.Ico s.k.toNat (2 * s.k.toNat - 1),
      (tget node (tget node i).c0.toNat).weight * d (tget node i).c0.toNat +
        (tget node (tget node i).c1.toNat).weight * d (tget node i).c1.toNat =
      (tget node i).weight * d i + (tget node i).weight := by
    intro i hi
    obtain ⟨hki, hin⟩ := Finset.mem_Ico.1 hi
    have hw : (tget node i).weight = _ := congrArg Node.weight (h.merges i hki hin).entry
    rw [hd i hki hin _ (mem_children.2 (.inl rfl)), hd i hki hin _ (mem_children.2 (.inr rfl)), hw, internalNode]
    ring
  rw [h.openNodes_last hk, Finset.sum_singleton, hroot, Nat.mul_zero, Nat.zero_add, Finset.sum_congr rfl hchildren,
    Finset.sum_add_distrib, ← Finset.sum_range_add_sum_Ico _ hkn] at hsum
  omega

/-- Merging the lowest keys loses nothing: whatever the leaves' lengths, the open nodes have lengths that cost less by
at least the weights of the internal nodes made so far. -/
theorem Arena.exists_merged_lengths {n i : Nat} (h : Arena s node n) (hk : s.k.toNat ≤ i) (hi : i ≤ n) {len : ℕ → ℕ}
    (hlen : Huffman.kraftSum (Finset.range s.k.toNat) len ≤ 1) :
    ∃ len', Huffman.kraftSum (openNodes node s.k.toNat i) len' ≤ 1 ∧
      Huffman.cost (openNodes node s.k.toNat i) (fun z => (tget node z).weight) len' +
        ∑ j ∈ Finset.Ico s.k.toNat i, (tget node j).weight ≤
      Huffman.cost (Finset.range s.k.toNat) (fun z => (tget node z).weight) len := by
  induction i, hk using Nat.le_induction with
  | base => exact ⟨len, by simpa [openNodes_start] using hlen, by simp [openNodes_start]⟩
  | succ i hki ih =>
    obtain ⟨l, hl, hcost⟩ := ih (by omega)
    have hm := h.merges i hki hi
    obtain ⟨l', hl', hcost'⟩ := Huffman.exists_merged_lengths (w := fun z => (tget node z).weight) hm.zero_open
      hm.one_mem_erase (fun hin => (lt_of_mem_openNodes hin).false) (fun _ => hm.zero_weight_le)
      (fun _ => hm.one_weight_le) (congrArg Node.weight hm.entry) hl
    refine ⟨l', by rwa [h.openNodes_succ hki hi], ?_⟩
    rw [h.openNodes_succ hki hi, Finset.sum_Ico_succ_top hki]
    omega

end

/-- Settles O21: BUILD and DEPTH reach the sum of the internal weights, and no lengths under Kraft cost less. -/
theorem codeIsOptimal : Obligations.CodeIsOptimal := by
  intro s hk2
  have hk : s.k ≠ 0 := by rintro e; simp [e] at hk2
  have hlt : s.k.toNat < 256 := s.k.isLt
  obtain ⟨t, he, heq, -, htree, harena⟩ := exec_build hk
  have htk : t.k = s.k := by rw [heq]
  have hpush := pushed_depths htree
  refine ⟨t, _, he, rfl, fun len hlen => ?_⟩
  have hleaf : ∀ j ∈ Finset.range s.k.toNat, tget s.freq (tget s.ent j).sym.toNat = (tget t.node j).weight :=
    fun j hj => (congrArg Node.weight (harena.leaves j (Finset.mem_range.1 hj))).symm
  have hdepth : ∀ j ∈ Finset.range s.k.toNat,
      (tget (assignLengths t.depths t.k.toNat t.ent) j).len = (tget t.depths j).depth := fun j hj => by
    rw [tget_assignLengths _ _ (by omega), if_pos (by rw [htk]; exact Finset.mem_range.1 hj),
      if_neg (by rw [htk]; omega)]
  obtain ⟨l, -, hcost⟩ := harena.exists_merged_lengths (by omega) le_rfl hlen
  calc ∑ j ∈ Finset.range s.k.toNat,
        tget s.freq (tget s.ent j).sym.toNat * (tget (assignLengths t.depths t.k.toNat t.ent) j).len.toNat
      = ∑ j ∈ Finset.range s.k.toNat, (tget t.node j).weight * (tget t.depths j).depth.toNat :=
        Finset.sum_congr rfl fun j hj => by rw [hleaf j hj, hdepth j hj]
    _ = ∑ i ∈ Finset.Ico s.k.toNat (2 * s.k.toNat - 1), (tget t.node i).weight := by
        refine harena.sum_weight_depth hk (d := fun j => (tget t.depths j).depth.toNat) ?_ fun i hki hi c hc => ?_
        · rw [← htk, ← htree.root_last, hpush.root_zero]
          rfl
        · exact hpush.toNat_child_depth htree (htk ▸ hki) (by rw [htk]; omega) hc
    _ ≤ ∑ j ∈ Finset.range s.k.toNat, (tget t.node j).weight * len j := le_of_add_le_right hcost
    _ = ∑ j ∈ Finset.range s.k.toNat, tget s.freq (tget s.ent j).sym.toNat * len j :=
        Finset.sum_congr rfl fun j hj => by rw [hleaf j hj]

end Sys2Proof.Machine

namespace Sys2Proof.Machine

open Sys2Proof

/-! ### DEPTH as a whole (R136, R137) -/

theorem State.toNat_k_eq_one {s : State} : s.k.toNat = 1 ↔ s.k = 1 := BitVec.toNat_inj (y := 1)

/-- DEPTH in every state: each entry's length is its leaf's depth, or 1 where there is one entry (R136, R137). -/
theorem exec_depth (s : State) :
    ∃ t, exec .depth s = .next t ∧ t = { s with node := s.depths, ent := t.ent, phase := phSort } ∧
      ∀ j, tget t.ent j =
        if j < s.k.toNat then ⟨(tget s.ent j).sym, if s.k = 1 then 1 else (tget s.depths j).depth⟩
        else tget s.ent j := by
  have hk : s.k.toNat < 256 := s.k.isLt
  refine ⟨_, rfl, rfl, fun j => ?_⟩
  simp only [tget_assignLengths _ _ (show s.k.toNat ≤ 255 by omega), State.toNat_k_eq_one]

/-- Settles O19: DEPTH's loops have pushed every depth, and each entry takes its leaf's. -/
theorem depthMeasuresLeaves : Obligations.DepthMeasuresLeaves := by
  intro s ht
  have hp := pushed_depths ht
  obtain ⟨t, he, heq, hent⟩ := exec_depth s
  have hnode : t.node = s.depths := by rw [heq]
  refine ⟨t, he, hnode ▸ heq, ?_⟩
  rw [hnode]
  refine ⟨hp.root_zero, fun i hk hi => ⟨?_, ?_⟩, hp.depth_only, hp.rest, fun j hj => ?_, fun j hj => ?_⟩
  · exact hp.toNat_child_depth ht hk hi (mem_children.2 (.inl rfl))
  · exact hp.toNat_child_depth ht hk hi (mem_children.2 (.inr rfl))
  · rw [hent, if_pos hj]
  · rw [hent, if_neg (by omega)]

/-! ### The depths of the leaves fill the Kraft sum (R139) -/

theorem kraft_map_range (f : Nat → Nat) (n : Nat) :
    kraft ((List.range n).map f) = ∑ m ∈ Finset.range n, 2 ^ (255 - f m) := by
  rw [kraft, List.map_map]
  rfl

theorem kraft_entries (s : State) :
    kraft (s.entries.map fun e => e.len.toNat) =
      ∑ j ∈ Finset.range s.k.toNat, 2 ^ (255 - (tget s.ent j).len.toNat) := by
  rw [State.entries, List.map_map, kraft_map_range]
  rfl

section

variable {s : State} {node : Vector Node 509}

/-- Two children share out what their parent has of the Kraft sum, so the leaves share out what the root has. -/
theorem Arena.sum_kraft_leaves (h : Arena s node (2 * s.k.toNat - 1)) (hk : s.k ≠ 0) {d : ℕ → ℕ}
    (hd : ∀ i, s.k.toNat ≤ i → i < 2 * s.k.toNat - 1 → ∀ c ∈ children node i, d c = d i + 1 ∧ d c ≤ 255) :
    ∑ j ∈ Finset.range s.k.toNat, 2 ^ (255 - d j) = 2 ^ (255 - d (2 * s.k.toNat - 2)) := by
  have hk0 := State.toNat_k_pos hk
  have hkn : s.k.toNat ≤ 2 * s.k.toNat - 1 := by omega
  have hsum := h.sum_range hkn le_rfl (fun x => 2 ^ (255 - d x))
  have hchildren : ∀ i ∈ Finset.Ico s.k.toNat (2 * s.k.toNat - 1),
      2 ^ (255 - d (tget node i).c0.toNat) + 2 ^ (255 - d (tget node i).c1.toNat) = 2 ^ (255 - d i) := by
    intro i hi
    obtain ⟨hki, hin⟩ := Finset.mem_Ico.1 hi
    obtain ⟨h0, hle⟩ := hd i hki hin _ (mem_children.2 (.inl rfl))
    obtain ⟨h1, -⟩ := hd i hki hin _ (mem_children.2 (.inr rfl))
    rw [h0, h1, ← Nat.two_mul, ← pow_succ', show 255 - (d i + 1) + 1 = 255 - d i by omega]
  rw [h.openNodes_last hk, Finset.sum_singleton, Finset.sum_congr rfl hchildren,
    ← Finset.sum_range_add_sum_Ico _ hkn] at hsum
  exact Nat.add_right_cancel hsum

/-- A leaf stands below the root and at most K - 1 edges from it (R139). -/
theorem Pushed.leaf_depth_bounds (h : Pushed s node s.k.toNat) (ht : TreeShaped s) (hk : 2 ≤ s.k.toNat) {j : Nat}
    (hj : j < s.k.toNat) : 1 ≤ (tget node j).depth.toNat ∧ (tget node j).depth.toNat ≤ s.k.toNat - 1 := by
  obtain ⟨p, ⟨hkp, hp, hc⟩, -⟩ := ht.one_parent j (by omega)
  have hdepth := h.toNat_child_depth ht hkp hp (mem_children.2 hc)
  have hparent := h.depth_le ht hkp hp
  omega

end

/-- BUILD and DEPTH keep K and give lengths that fill the Kraft sum (R139). -/
theorem exec_build_depth {s : State} (hk : s.k ≠ 0) :
    ∃ t u, exec .build s = .next t ∧ exec .depth t = .next u ∧ u.k = s.k ∧
      (2 ≤ s.k.toNat →
        kraft (u.entries.map (fun e => e.len.toNat)) = 2 ^ 255 ∧
        ∀ e ∈ u.entries, 1 ≤ e.len.toNat ∧ e.len.toNat ≤ s.k.toNat - 1) ∧
      (s.k = 1 → u.entries.map Entry.len = [1]) := by
  obtain ⟨t, hbuild, ht, -, htree, harena⟩ := exec_build hk
  obtain ⟨u, hdepth, hu, hent⟩ := exec_depth t
  have htk : t.k = s.k := by rw [ht]
  have huk : u.k = s.k := by rw [hu, ← htk]
  have hp := pushed_depths htree
  rw [htk] at hent
  refine ⟨t, u, hbuild, hdepth, huk, fun h2 => ?_, fun h1 => ?_⟩
  · have hlen : ∀ j < s.k.toNat, (tget u.ent j).len = (tget t.depths j).depth := fun j hj => by
      rw [hent, if_pos hj, if_neg (mt State.toNat_k_eq_one.2 (by omega))]
    constructor
    · rw [kraft_entries, huk, Finset.sum_congr rfl fun j hj => by rw [hlen j (Finset.mem_range.1 hj)]]
      refine (harena.sum_kraft_leaves hk (d := fun j => (tget t.depths j).depth.toNat)
        fun i hki hi c hc => ⟨?_, ?_⟩).trans ?_
      · exact hp.toNat_child_depth htree (htk ▸ hki) (by rw [htk]; omega) hc
      · exact Nat.le_of_lt_succ (tget t.depths c).depth.isLt
      · rw [← htk, ← htree.root_last, hp.root_zero]
        rfl
    · simp only [State.entries, List.mem_map, List.mem_range, huk]
      rintro e ⟨j, hj, rfl⟩
      rw [hlen j hj]
      exact htk ▸ hp.leaf_depth_bounds htree (htk ▸ h2) (htk ▸ hj)
  · simp [State.entries, huk, h1, hent]

/-- Settles O20: the leaves of BUILD's tree, as deep as DEPTH measures them. -/
theorem codeLengthsFillKraftSum : Obligations.CodeLengthsFillKraftSum := by
  intro s hk
  obtain ⟨t, u, hb, hd, -, htwo, hone⟩ := exec_build_depth hk
  refine ⟨t, u, hb, hd, htwo, fun h1 => ⟨?_, hone h1⟩⟩
  have hlen : u.entries.map (fun e => e.len.toNat) = [1] := by
    simpa using congrArg (List.map BitVec.toNat) (hone h1)
  rw [hlen]
  rfl

end Sys2Proof.Machine

namespace Sys2Proof.Machine

open Sys2Proof

/-! ### SORT as a whole (R141) -/

/-- The symbol and the length of a row, which SORT takes from an entry. -/
def CodeEntry.entry (r : CodeEntry) : Entry := ⟨r.sym, r.len⟩

/-- SORT in every state: the rows are the entries in canonical order, and neither a code nor another row changes. -/
theorem exec_sort (s : State) :
    ∃ t, exec .sort s = .next t ∧ t = { s with ct := t.ct, phase := phAssign } ∧
      t.rows.map CodeEntry.entry = canonicalOrder s.entries ∧
      (∀ i, (tget t.ct i).code = (tget s.ct i).code) ∧ ∀ i, s.k.toNat ≤ i → tget t.ct i = tget s.ct i := by
  have hk : s.k.toNat < 256 := s.k.isLt
  have hrow := tget_writeRows s.ct 0 (canonicalOrder s.entries) (by simp; omega)
  refine ⟨_, rfl, rfl, ?_, fun i => ?_, fun i hi => ?_⟩
  · refine List.ext_getElem (by simp) fun i hi hi' => ?_
    simp only [List.getElem_map, State.rows, List.getElem_range, hrow]
    rw [dif_pos ⟨Nat.zero_le i, hi'⟩]
    rfl
  · dsimp only
    rw [hrow]
    split <;> rfl
  · exact (hrow i).trans (dif_neg (by simp; omega))

/-- Settles O22: the canonical order is a permutation and sorted. -/
theorem sortPutsEntriesInCanonicalOrder : Obligations.SortPutsEntriesInCanonicalOrder := by
  intro s
  obtain ⟨t, he, ht, hrows, hcode, hrest⟩ := exec_sort s
  refine ⟨t, he, ht, ?_, ?_, hcode, hrest⟩
  · exact hrows ▸ canonicalOrder_perm s.entries
  · have hsorted := canonicalOrder_sorted s.entries
    rw [← hrows, List.pairwise_map] at hsorted
    exact hsorted.imp (entryLe_iff _ _).1

/-! ### Canonical code values as sums (R145) -/

/-- The code value of row `i` among rows of some lengths: the Kraft sum before it, scaled by 2 to its length (R145). -/
def codeValue (len : Nat → Nat) (i : Nat) : Nat := ∑ m ∈ Finset.range i, 2 ^ (len i - len m)

section

variable {len : Nat → Nat} {i j : Nat}

/-- One row further: count up, then shift to the new length (R143). -/
theorem codeValue_succ (h : ∀ m < i, len m ≤ len i) (hi : len i ≤ len (i + 1)) :
    codeValue len (i + 1) = (codeValue len i + 1) * 2 ^ (len (i + 1) - len i) := by
  rw [codeValue, Finset.sum_range_succ, codeValue, Nat.add_mul, Finset.sum_mul, Nat.one_mul]
  refine congrArg (· + _) (Finset.sum_congr rfl fun m hm => ?_)
  have := h m (Finset.mem_range.1 hm)
  rw [← pow_add]
  congr 1
  omega

/-- A code as a fraction is the Kraft sum before its row. -/
theorem codeValue_mul_pow (h : ∀ m < i, len m ≤ len i) (hi : len i ≤ 255) :
    codeValue len i * 2 ^ (255 - len i) = ∑ m ∈ Finset.range i, 2 ^ (255 - len m) := by
  rw [codeValue, Finset.sum_mul]
  refine Finset.sum_congr rfl fun m hm => ?_
  have := h m (Finset.mem_range.1 hm)
  rw [← pow_add]
  congr 1
  omega

/-- The end of a code's share, as a fraction, is the Kraft sum up to its row. -/
theorem codeValue_add_one_mul_pow (h : ∀ m < i, len m ≤ len i) (hi : len i ≤ 255) :
    (codeValue len i + 1) * 2 ^ (255 - len i) = ∑ m ∈ Finset.range (i + 1), 2 ^ (255 - len m) := by
  rw [Nat.add_mul, codeValue_mul_pow h hi, Finset.sum_range_succ, Nat.one_mul]

/-- No code value overflows CODE_W (R146). -/
theorem codeValue_lt (hi : i < 255) (hlen : len i ≤ 255) : codeValue len i < 2 ^ 264 := by
  have hle : codeValue len i ≤ i * 2 ^ 255 := by
    have hterm : ∀ m ∈ Finset.range i, 2 ^ (len i - len m) ≤ 2 ^ 255 :=
      fun m _ => Nat.pow_le_pow_right (by decide) (by omega)
    simpa [codeValue] using Finset.sum_le_card_nsmul _ _ _ hterm
  omega

end

/-! ### ASSIGN's loop (R143) -/

/-- The length of row `i` as a number. -/
def State.rowLen (s : State) (i : Nat) : Nat := (tget s.ct i).len.toNat

theorem State.rowLen_le (s : State) (i : Nat) : s.rowLen i ≤ 255 := Nat.le_of_lt_succ (tget s.ct i).len.isLt

/-- ASSIGN's loop after `n` turns: the rows below `n` have their codes, and CODE and PREVLEN go on from the last. -/
structure Assigned (s : State) (a : Assigner) (n : Nat) : Prop where
  row : ∀ i, i < n → tget a.ct i = { tget s.ct i with code := BitVec.ofNat 264 (codeValue s.rowLen i) }
  rest : ∀ i, n ≤ i → tget a.ct i = tget s.ct i
  code : a.code = if n = 0 then 0 else (tget a.ct (n - 1)).code + 1
  prevlen : a.prevlen = (tget s.ct (n - 1)).len

/-- One turn shifts CODE by the difference of the lengths, which is nothing where the length does not rise. -/
theorem assignRow_eq (a : Assigner) (i : Nat) :
    assignRow a i =
      { ct := tset a.ct i
          { tget a.ct i with code := a.code <<< ((tget a.ct i).len.toNat - a.prevlen.toNat) }
        code := a.code <<< ((tget a.ct i).len.toNat - a.prevlen.toNat) + 1
        prevlen := (tget a.ct i).len } := by
  have hshift : (if a.prevlen < (tget a.ct i).len then a.code <<< ((tget a.ct i).len.toNat - a.prevlen.toNat)
      else a.code) = a.code <<< ((tget a.ct i).len.toNat - a.prevlen.toNat) := by
    split
    · rfl
    · rename_i h
      rw [BitVec.lt_def] at h
      rw [Nat.sub_eq_zero_of_le (by omega), BitVec.shiftLeft_zero]
  simp only [assignRow, hshift]

section

variable {s : State} {a : Assigner} {n : Nat}

theorem Assigned.sym_len (h : Assigned s a n) (i : Nat) :
    (tget a.ct i).sym = (tget s.ct i).sym ∧ (tget a.ct i).len = (tget s.ct i).len := by
  by_cases hi : i < n
  · rw [h.row i hi]
    exact ⟨rfl, rfl⟩
  · rw [h.rest i (by omega)]
    exact ⟨rfl, rfl⟩

theorem toNat_ofNat_of_lt {w x : Nat} (h : x < 2 ^ w) : (BitVec.ofNat w x).toNat = x := Nat.mod_eq_of_lt h

theorem ofNat_shiftLeft {w : Nat} (x d : Nat) : BitVec.ofNat w x <<< d = BitVec.ofNat w (x * 2 ^ d) := by
  refine BitVec.eq_of_toNat_eq ?_
  rw [BitVec.toNat_shiftLeft, BitVec.toNat_ofNat, BitVec.toNat_ofNat, Nat.shiftLeft_eq, Nat.mod_mul_mod]

/-- What the next turn puts into its row. -/
theorem Assigned.shifted_code (h : Assigned s a n) (hr : s.rowsRising) (hn : n < s.k.toNat) :
    a.code <<< ((tget s.ct n).len.toNat - a.prevlen.toNat) = BitVec.ofNat 264 (codeValue s.rowLen n) := by
  rw [h.code, h.prevlen]
  cases n with
  | zero => simp [codeValue]
  | succ m =>
    have hsucc := codeValue_succ (len := s.rowLen) (fun i hi => hr i m hi (by omega)) (hr m (m + 1) (by omega) hn)
    rw [if_neg (Nat.succ_ne_zero m), Nat.add_sub_cancel, h.row m (Nat.lt_succ_self m), hsucc, ← ofNat_shiftLeft,
      BitVec.ofNat_add]
    rfl

theorem Assigned.assignRow (h : Assigned s a n) (hr : s.rowsRising) (hn : n < s.k.toNat) :
    Assigned s (assignRow a n) (n + 1) := by
  have hk : s.k.toNat < 256 := s.k.isLt
  rw [assignRow_eq, h.rest n le_rfl, h.shifted_code hr hn]
  refine ⟨fun i hi => ?_, fun i hi => ?_, ?_, rfl⟩
  · obtain rfl | hne := eq_or_ne n i
    · exact tget_tset_same _ _ (by omega)
    · rw [tget_tset_ne _ _ hne, h.row i (by omega)]
  · rw [tget_tset_ne _ _ (by omega), h.rest i (by omega)]
  · rw [if_neg (Nat.succ_ne_zero n), Nat.add_sub_cancel, tget_tset_same _ _ (by omega)]

theorem assigned_codes (hr : s.rowsRising) : Assigned s s.codes s.k.toNat := by
  have hloop : ∀ n, n ≤ s.k.toNat →
      Assigned s ((List.range n).foldl Machine.assignRow ⟨s.ct, 0, (tget s.ct 0).len⟩) n := by
    intro n hn
    induction n with
    | zero => exact ⟨fun i hi => absurd hi (Nat.not_lt_zero i), fun i _ => rfl, rfl, rfl⟩
    | succ n ih =>
      rw [List.range_succ, List.foldl_append]
      exact (ih (by omega)).assignRow hr hn
  exact hloop _ le_rfl

end

/-- The last row of a symbol gives its entry of EM (R143). -/
theorem tget_mapRows (ct : Vector CodeEntry 255) (em : Vector MapEntry 256) (n : Nat) (x : Byte) :
    tget ((List.range n).foldl (mapRow ct) em) x.toNat =
      (((List.range n).map (tget ct)).reverse.find? (fun r => r.sym == x)).elim (tget em x.toNat)
        (fun r => ⟨true, r.len, r.code⟩) := by
  induction n with
  | zero => rfl
  | succ n ih =>
    rw [List.range_succ, List.foldl_append, List.foldl_cons, List.foldl_nil, List.map_append, List.reverse_append,
      mapRow, tget_tset, ih]
    by_cases h : (tget ct n).sym = x
    · simp [h, x.isLt]
    · simp [h, BitVec.toNat_inj]

/-- ASSIGN in every state: what its loop leaves, and EM from the rows in the encoder alone (R143). -/
theorem exec_assign (s : State) :
    ∃ t, exec .assign s = .next t ∧
      t = { s with
        ct := s.codes.ct, code := s.codes.code, prevlen := s.codes.prevlen, em := t.em
        phase := if s.dir = .compress then phHdrw else phUnpack } ∧
      (s.dir = .compress → t.em = (List.range s.k.toNat).foldl (mapRow s.codes.ct) s.em) ∧
      (s.dir = .decompress → t.em = s.em) := by
  show ∃ t, execAssign s = .next t ∧ _
  cases hd : s.dir <;> simp [execAssign, hd]

/-- Settles O23: ASSIGN's loop has given each row its sum, which fits CODE_W, and EM takes the rows in turn. -/
theorem assignCountsCanonicalCodes : Obligations.AssignCountsCanonicalCodes := by
  intro s hr
  have hk : s.k.toNat < 256 := s.k.isLt
  have ha := assigned_codes hr
  obtain ⟨t, he, ht, hcompress, hdecompress⟩ := exec_assign s
  have hct : t.ct = s.codes.ct := by rw [ht]
  have hcode : t.code = s.codes.code := by rw [ht]
  have hprev : t.prevlen = s.codes.prevlen := by rw [ht]
  have hrows : t.rows = (List.range s.k.toNat).map (tget s.codes.ct) := by rw [ht, State.rows]
  rw [← hct, ← hcode, ← hprev] at ht
  refine ⟨t, he, ht, ?_⟩
  rw [hct, hcode, hprev, hrows]
  refine ⟨ha.sym_len, fun i hi => ?_, fun i hi => ?_, fun hne => ⟨?_, ha.prevlen⟩, fun h0 => ⟨?_, ?_⟩, fun hd x => ?_,
    hdecompress⟩
  · rw [ha.row i hi]
    exact toNat_ofNat_of_lt (codeValue_lt (by omega) (s.rowLen_le i))
  · rw [ha.rest i hi]
  · rw [ha.code, if_neg (State.toNat_k_pos hne).ne']
  · rw [ha.code, if_pos (by rw [h0]; rfl)]
  · rw [ha.prevlen, h0]
    rfl
  · rw [hcompress hd, tget_mapRows]
    cases ((List.range s.k.toNat).map (tget s.codes.ct)).reverse.find? (fun r => r.sym == x) <;> rfl

end Sys2Proof.Machine

namespace Sys2Proof.Machine

open Sys2Proof

/-! ### Codes as fractions (R145, R147) -/

theorem kraft_rows (s : State) :
    kraft (s.rows.map fun r => r.len.toNat) = ∑ m ∈ Finset.range s.k.toNat, 2 ^ (255 - s.rowLen m) := by
  rw [State.rows, List.map_map]
  exact kraft_map_range s.rowLen _

/-- Row `r` is no longer than row `q`, and its code, as a fraction, ends where the code of `q` begins or earlier. -/
def CodeEntry.EndsBefore (r q : CodeEntry) : Prop :=
  r.len.toNat ≤ q.len.toNat ∧
    (r.code.toNat + 1) * 2 ^ (255 - r.len.toNat) ≤ q.code.toNat * 2 ^ (255 - q.len.toNat)

/-- ASSIGN on rising rows: each row keeps its entry, and its code begins, as a fraction, at the Kraft sum before it and
ends at the Kraft sum up to it (R145). -/
theorem exec_assign_rising {s : State} (hr : s.rowsRising) :
    ∃ t, exec .assign s = .next t ∧ t.k = s.k ∧ ∀ i < s.k.toNat,
      (tget t.ct i).entry = (tget s.ct i).entry ∧
      (tget t.ct i).code.toNat * 2 ^ (255 - s.rowLen i) = ∑ m ∈ Finset.range i, 2 ^ (255 - s.rowLen m) ∧
      ((tget t.ct i).code.toNat + 1) * 2 ^ (255 - s.rowLen i) =
        ∑ m ∈ Finset.range (i + 1), 2 ^ (255 - s.rowLen m) := by
  obtain ⟨t, he, ht, hkeep, hcode, -⟩ := assignCountsCanonicalCodes s hr
  refine ⟨t, he, by rw [ht], fun i hi => ?_⟩
  have hvalue : (tget t.ct i).code.toNat = codeValue s.rowLen i := hcode i hi
  have hrise : ∀ m < i, s.rowLen m ≤ s.rowLen i := fun m hm => hr m i hm hi
  rw [hvalue, codeValue_mul_pow hrise (s.rowLen_le i), codeValue_add_one_mul_pow hrise (s.rowLen_le i)]
  exact ⟨congrArg₂ Entry.mk (hkeep i).1 (hkeep i).2, rfl, rfl⟩

/-- After ASSIGN on rising rows each code ends, as a fraction, before the next begins; where the lengths fill the Kraft
sum every code fits its length and the last is all ones (R145, R147). -/
theorem exec_assign_fractions {s : State} (hr : s.rowsRising) :
    ∃ t, exec .assign s = .next t ∧ t.rows.map CodeEntry.entry = s.rows.map CodeEntry.entry ∧
      t.rows.Pairwise CodeEntry.EndsBefore ∧
      (kraft (s.rows.map fun r => r.len.toNat) = 2 ^ 255 →
        (∀ r ∈ t.rows, r.code.toNat < 2 ^ r.len.toNat) ∧
        (tget t.ct (s.k.toNat - 1)).code.toNat = 2 ^ (tget s.ct (s.k.toNat - 1)).len.toNat - 1) := by
  obtain ⟨t, he, hk, hrow⟩ := exec_assign_rising hr
  have hmono : Monotone fun i => ∑ m ∈ Finset.range i, 2 ^ (255 - s.rowLen m) :=
    fun i j hij => Finset.sum_le_sum_of_subset (Finset.range_mono hij)
  have hlen : ∀ i < s.k.toNat, (tget t.ct i).len.toNat = s.rowLen i :=
    fun i hi => congrArg (fun e : Entry => e.len.toNat) (hrow i hi).1
  have hwhole : ∀ i, 2 ^ s.rowLen i * 2 ^ (255 - s.rowLen i) = 2 ^ 255 := fun i => by
    rw [← pow_add, Nat.add_sub_cancel' (s.rowLen_le i)]
  refine ⟨t, he, ?_, ?_, fun hkraft => ⟨?_, ?_⟩⟩
  · simp only [State.rows, hk, List.map_map]
    exact List.map_congr_left fun i hi => (hrow i (List.mem_range.1 hi)).1
  · rw [State.rows, hk, List.pairwise_map]
    refine List.pairwise_lt_range.imp_of_mem fun {i j} hi hj hij => ?_
    rw [List.mem_range] at hi hj
    rw [CodeEntry.EndsBefore, hlen i hi, hlen j hj, (hrow i hi).2.2, (hrow j hj).2.1]
    exact ⟨hr i j hij hj, hmono hij⟩
  · simp only [State.rows, hk, List.mem_map, List.mem_range]
    rintro r ⟨i, hi, rfl⟩
    refine Nat.lt_of_add_one_le (Nat.le_of_mul_le_mul_right ?_ (Nat.two_pow_pos (255 - s.rowLen i)))
    rw [(hrow i hi).2.2, hlen i hi, hwhole, ← hkraft, kraft_rows]
    exact hmono hi
  · have hk0 : s.k.toNat ≠ 0 := fun h0 => by simp [kraft_rows, h0] at hkraft
    have hlast := (hrow (s.k.toNat - 1) (by omega)).2.2
    rw [Nat.sub_add_cancel (by omega), ← kraft_rows, hkraft, ← hwhole (s.k.toNat - 1)] at hlast
    exact Nat.eq_sub_of_add_eq (Nat.eq_of_mul_eq_mul_right (Nat.two_pow_pos _) hlast)

/-- Settles O25: codes as fractions are the Kraft sums before their rows, and the last row fills the whole. -/
theorem completeCodesFitTheirLengths : Obligations.CompleteCodesFitTheirLengths := by
  intro s hr hkraft
  obtain ⟨t, he, -, hbefore, hcomplete⟩ := exec_assign_fractions hr
  obtain ⟨hfit, hlast⟩ := hcomplete hkraft
  exact ⟨t, he, hfit, hlast, hbefore.imp And.right⟩

/-! ### SORT and ASSIGN on any entries (R147, R149) -/

theorem kraft_perm {ls ls' : List Nat} (h : ls.Perm ls') : kraft ls = kraft ls' := (h.map _).sum_eq

/-- SORT leaves rising rows (R141, R143). -/
theorem rowsRising_of_sorted {s : State} (h : (s.rows.map CodeEntry.entry).Pairwise fun e f => entryLe e f = true) :
    s.rowsRising := by
  intro i j hij hj
  rw [List.pairwise_map, State.rows, List.pairwise_map] at h
  have hle := List.pairwise_iff_getElem.1 h i j (by simp; omega) (by simpa using hj) hij
  simp only [List.getElem_range] at hle
  obtain hlt | ⟨heq, -⟩ := (entryLe_iff _ _).1 hle
  · exact hlt.le
  · exact (congrArg BitVec.toNat heq).le

/-- SORT and ASSIGN on any entries: the rows are the entries in canonical order, each code ends before the next begins,
and codes whose lengths fill the Kraft sum fit them. -/
theorem exec_sort_assign (s : State) :
    ∃ t u, exec .sort s = .next t ∧ exec .assign t = .next u ∧
      (u.rows.map CodeEntry.entry).Perm s.entries ∧
      u.rows.Pairwise (fun r q => entryLe r.entry q.entry = true ∧ r.EndsBefore q) ∧
      (kraft (s.entries.map fun e => e.len.toNat) = 2 ^ 255 → ∀ r ∈ u.rows, r.code.toNat < 2 ^ r.len.toNat) := by
  obtain ⟨t, hsort, -, hrows, -⟩ := exec_sort s
  have hsorted := canonicalOrder_sorted s.entries
  have hperm := canonicalOrder_perm s.entries
  rw [← hrows] at hsorted hperm
  obtain ⟨u, hassign, hkeep, hbefore, hcomplete⟩ := exec_assign_fractions (rowsRising_of_sorted hsorted)
  refine ⟨t, u, hsort, hassign, hkeep ▸ hperm, ?_, fun hkraft => (hcomplete ?_).1⟩
  · rw [← hkeep, List.pairwise_map] at hsorted
    exact hsorted.and hbefore
  · rw [← hkraft, ← kraft_perm (hperm.map fun e => e.len.toNat), List.map_map]
    rfl

/-! ### No codeword begins another (R147, R187) -/

theorem getElem_bitString {len : Nat} {c : Code} {i : Nat} (h : i < (Contract.bitString len c).length) :
    (Contract.bitString len c)[i] = c.toNat.testBit (len - 1 - i) := by
  simp [Contract.bitString, BitVec.testBit_toNat]

@[simp] theorem length_bitString (len : Nat) (c : Code) : (Contract.bitString len c).length = len := by
  simp [Contract.bitString]

/-- A code whose codeword begins another one is the other code without its last bits. -/
theorem div_eq_of_bitString_prefix {l l' : Nat} {c c' : Code} (hc : c.toNat < 2 ^ l) (hc' : c'.toNat < 2 ^ l')
    (h : Contract.bitString l c <+: Contract.bitString l' c') : c'.toNat / 2 ^ (l' - l) = c.toNat := by
  have hle : l ≤ l' := by simpa using h.length_le
  refine Nat.eq_of_testBit_eq fun j => ?_
  rw [Nat.testBit_div_two_pow]
  by_cases hj : j < l
  · have hbit := h.getElem (i := l - 1 - j) (by simp; omega)
    rw [getElem_bitString, getElem_bitString, show l - 1 - (l - 1 - j) = j by omega,
      show l' - 1 - (l - 1 - j) = j + (l' - l) by omega] at hbit
    exact hbit.symm
  · rw [Nat.testBit_lt_two_pow (hc'.trans_le (Nat.pow_le_pow_right (by decide) (by omega))),
      Nat.testBit_lt_two_pow (hc.trans_le (Nat.pow_le_pow_right (by decide) (by omega)))]

section

variable {r q : CodeEntry}

/-- Of two codes that fit their lengths, one before the other as a fraction, neither codeword begins the other: the bits
of the later code at the earlier one's length are a greater number (R147). -/
theorem CodeEntry.EndsBefore.prefix_free (h : r.EndsBefore q) (hr : r.code.toNat < 2 ^ r.len.toNat)
    (hq : q.code.toNat < 2 ^ q.len.toNat) :
    ¬ Contract.codeword r <+: Contract.codeword q ∧ ¬ Contract.codeword q <+: Contract.codeword r := by
  obtain ⟨hlen, hcode⟩ := h
  have hq8 : q.len.toNat < 256 := q.len.isLt
  have hfree : ¬ Contract.codeword r <+: Contract.codeword q := fun hp => by
    have hdiv := div_eq_of_bitString_prefix hr hq hp
    rw [show 255 - r.len.toNat = q.len.toNat - r.len.toNat + (255 - q.len.toNat) by omega, pow_add,
      ← Nat.mul_assoc] at hcode
    have hlt := (Nat.le_div_iff_mul_le (Nat.two_pow_pos _)).2 (Nat.le_of_mul_le_mul_right hcode (Nat.two_pow_pos _))
    omega
  refine ⟨hfree, fun hp => hfree ?_⟩
  have hle : q.len.toNat ≤ r.len.toNat := by simpa [Contract.codeword] using hp.length_le
  rw [hp.eq_of_length (by simp [Contract.codeword]; omega)]

/-- Of two rows of one length the earlier has the smaller code. -/
theorem CodeEntry.EndsBefore.code_lt (h : r.EndsBefore q) (hlen : r.len = q.len) : r.code.toNat < q.code.toNat := by
  obtain ⟨-, hcode⟩ := h
  rw [hlen] at hcode
  exact Nat.lt_of_add_one_le (Nat.le_of_mul_le_mul_right hcode (Nat.two_pow_pos _))

end

/-- Settles O24: matchable codes fit their lengths, and each ends before the next begins. -/
theorem matchableCodesArePrefixFree : Obligations.MatchableCodesArePrefixFree := by
  intro s
  obtain ⟨t, u, hsort, hassign, -, hrows, -⟩ := exec_sort_assign s
  have hfit : ∀ {r : CodeEntry}, Contract.matchable r = true → r.code.toNat < 2 ^ r.len.toNat := fun {r} h => by
    simp only [Contract.matchable, Bool.and_eq_true, decide_eq_true_eq] at h
    exact h.2
  exact ⟨t, u, hsort, hassign, hrows.imp fun h hr hq => h.2.prefix_free (hfit hr) (hfit hq)⟩

/-- In rows in canonical order whose codes end before the next begins, equal lengths have codes in symbol order. -/
theorem code_lt_of_sym_lt {rows : List CodeEntry}
    (h : rows.Pairwise fun r q => entryLe r.entry q.entry = true ∧ r.EndsBefore q) {r q : CodeEntry} (hr : r ∈ rows)
    (hq : q ∈ rows) (hlen : r.len = q.len) (hsym : r.sym.toNat < q.sym.toNat) : r.code.toNat < q.code.toNat := by
  obtain ⟨i, hi, rfl⟩ := List.getElem_of_mem hr
  obtain ⟨j, hj, rfl⟩ := List.getElem_of_mem hq
  have hpair := List.pairwise_iff_getElem.1 h
  obtain hij | rfl | hji := lt_trichotomy i j
  · exact (hpair i j hi hj hij).2.code_lt hlen
  · exact absurd hsym (lt_irrefl _)
  · obtain hlt | ⟨-, hle⟩ := (entryLe_iff _ _).1 (hpair j i hj hi hji).1
    · exact absurd (congrArg BitVec.toNat hlen) hlt.ne'
    · exact absurd hle hsym.not_ge

/-- Settles O51: the rows are in canonical order and their codes rise. -/
theorem equalLengthCodesFollowSymbols : Obligations.EqualLengthCodesFollowSymbols := by
  intro s
  obtain ⟨t, u, hsort, hassign, -, hrows, -⟩ := exec_sort_assign s
  exact ⟨t, u, hsort, hassign, fun r hr q hq => code_lt_of_sym_lt hrows hr hq⟩

/-! ### The encoder's code table (R149) -/

/-- Settles O50: the lengths fill the Kraft sum, so every code fits its length, and SORT and ASSIGN do the rest; with
K = 1 there is no other codeword. -/
theorem encoderCodesAreCanonical : Obligations.EncoderCodesAreCanonical := by
  intro s hk
  obtain ⟨t, u, hbuild, hdepth, huk, htwo, -⟩ := exec_build_depth hk
  obtain ⟨v, w, hsort, hassign, hperm, hrows, hfit⟩ := exec_sort_assign u
  have hlen : w.rows.length = s.k.toNat := by simpa [huk] using hperm.length_eq
  refine ⟨t, u, v, w, hbuild, hdepth, hsort, hassign, ⟨?_, fun r hr q hq => code_lt_of_sym_lt hrows hr hq⟩,
    fun h2 => ?_⟩
  · obtain h1 | h2 : s.k.toNat = 1 ∨ 2 ≤ s.k.toNat := by have := State.toNat_k_pos hk; omega
    · obtain ⟨r, hr⟩ := List.length_eq_one_iff.1 (hlen.trans h1)
      rw [hr]
      exact List.pairwise_singleton _ r
    · have hfits := hfit (htwo h2).1
      exact hrows.imp_of_mem fun hr hq h => h.2.prefix_free (hfits _ hr) (hfits _ hq)
  · rw [← (htwo h2).1, ← kraft_perm (hperm.map fun e => e.len.toNat), List.map_map]
    rfl

end Sys2Proof.Machine

namespace Sys2Proof.Machine

open Sys2Proof

/-! ### HDRW as a whole (R156) -/

section

variable {s : State}

/-- OBUF once HDRW has written the count byte and the first `n` pairs. -/
def State.headerUpTo (s : State) (n : Nat) : Memory :=
  (List.range n).foldl (fun m j => writePair m j (tget s.ent j)) (Memory.write s.obuf 0 s.k)

theorem State.headerUpTo_succ (s : State) (n : Nat) :
    s.headerUpTo (n + 1) = writePair (s.headerUpTo n) n (tget s.ent n) := by
  rw [State.headerUpTo, List.range_succ, List.foldl_append]
  rfl

theorem exec_hdrw (s : State) :
    exec .hdrw s =
      .next { s with obuf := s.headerUpTo s.k.toNat, optr := payloadAddr s.k.toNat, phase := phPack } := rfl

/-- The later pairs go past the end of the earlier ones. -/
theorem headerUpTo_writes {i n : Nat} (h : i ≤ n) :
    WritesUp (s.headerUpTo i) (payloadAddr i) (s.headerUpTo n) (payloadAddr n) := by
  induction n, h using Nat.le_induction with
  | base => exact .refl
  | succ n _ ih =>
    rw [s.headerUpTo_succ]
    exact ih.trans (writePair_writes _ n _)

theorem lookup_headerUpTo_count (s : State) (n : Nat) : Memory.lookup (s.headerUpTo n) 0 = some s.k :=
  ((headerUpTo_writes n.zero_le).lookup_of_outside (.inl Nat.one_pos)).trans (Memory.lookup_write_same _ _ _)

theorem lookup_headerUpTo_pair {j n : Nat} (h : j < n) :
    Memory.lookup (s.headerUpTo n) (symAddr j) = some (tget s.ent j).sym ∧
    Memory.lookup (s.headerUpTo n) (lenAddr j) = some (tget s.ent j).len := by
  have hw : WritesUp (s.headerUpTo (j + 1)) (payloadAddr (j + 1)) (s.headerUpTo n) (payloadAddr n) :=
    headerUpTo_writes h
  have hsym : symAddr j < payloadAddr (j + 1) := by rw [symAddr, payloadAddr]; omega
  have hlen : lenAddr j < payloadAddr (j + 1) := by rw [lenAddr, payloadAddr]; omega
  rw [hw.lookup_of_outside (.inl hsym), hw.lookup_of_outside (.inl hlen), s.headerUpTo_succ]
  exact ⟨lookup_writePair_sym _ j _, lookup_writePair_len _ j _⟩

theorem lookup_headerUpTo_of_le {n a : Nat} (h : payloadAddr n ≤ a) :
    Memory.lookup (s.headerUpTo n) a = Memory.lookup s.obuf a :=
  (header_writes s.obuf s.ent s.k n).lookup_of_outside (.inr h)

end

/-- Settles O27: no pair is written over by a later one, and none lies at or past the payload's address. -/
theorem hdrwWritesCountAndPairs : Obligations.HdrwWritesCountAndPairs := fun s =>
  ⟨_, exec_hdrw s, rfl, lookup_headerUpTo_count s _, fun _ hj => lookup_headerUpTo_pair hj,
    fun _ ha => lookup_headerUpTo_of_le ha⟩

/-! ### HDRR as a whole (R160) -/

/-- Each entry is the two bytes of its pair (R88). -/
theorem tget_readPairs (s : State) {n : Nat} (hn : n ≤ 255) (ent : Vector Entry 255) (i : Nat) :
    tget ((List.range n).foldl (readPair s) ent) i =
      if i < n then ⟨s.readIbuf (symAddr i), s.readIbuf (lenAddr i)⟩ else tget ent i := by
  induction n with
  | zero => simp
  | succ n ih =>
    rw [List.range_succ, List.foldl_append, List.foldl_cons, List.foldl_nil, readPair, tget_tset, ih (by omega)]
    obtain rfl | hne := eq_or_ne n i
    · rw [if_pos ⟨rfl, hn⟩, if_pos n.lt_succ_self]
    · rw [if_neg fun h => hne h.1]
      exact if_congr (by omega) rfl rfl

theorem exec_hdrr_of_whole {s : State} (hk : s.readIbuf 0 ≠ 0) (h : payloadAddr (s.readIbuf 0).toNat ≤ s.ilen) :
    exec .hdrr s = .next { s with
      k := s.readIbuf 0
      ent := (List.range (s.readIbuf 0).toNat).foldl (readPair s) s.ent
      iptr := payloadAddr (s.readIbuf 0).toNat
      phase := phSort } := by
  have hilen : ¬ s.ilen < 1 := by rw [payloadAddr] at h; omega
  show execHdrr s = _
  rw [execHdrr, if_neg hilen, withCount_of_whole hk h]
  rfl

/-- Settles O28: a whole header passes both tests, and K is at most 255, so each pair has its place in ENT. -/
theorem hdrrReadsCountAndPairs : Obligations.HdrrReadsCountAndPairs := by
  intro s _ hk hle
  have hentry := tget_readPairs s (Nat.le_of_lt_succ (s.readIbuf 0).isLt) s.ent
  exact ⟨_, exec_hdrr_of_whole hk hle, rfl, rfl, fun j hj => (hentry j).trans (if_pos hj),
    fun j hj => (hentry j).trans (if_neg (Nat.not_lt.2 hj))⟩

/-! ### The round trip (R163) -/

/-- Settles O30: the count byte and each pair are read at the addresses they were written at. -/
theorem headerRoundTrip : Obligations.HeaderRoundTrip := by
  intro s hk
  obtain ⟨t, hwrite, -, hcount, hpairs, -⟩ := hdrwWritesCountAndPairs s
  refine ⟨t, hwrite, fun u hle hbytes => ?_⟩
  have hread {a : Nat} {b : Byte} (ha : a < 1 + 2 * s.k.toNat) (hb : Memory.lookup t.obuf a = some b) :
      u.readIbuf a = b := Option.some.inj ((hbytes a ha).symm.trans hb)
  have huk : u.readIbuf 0 = s.k := hread (by omega) hcount
  obtain ⟨v, hexec, hv, -, hentries, -⟩ :=
    hdrrReadsCountAndPairs u (by omega) (huk ▸ hk) (huk ▸ hle)
  have hvk : v.k = s.k := (congrArg State.k hv).trans huk
  refine ⟨v, hexec, hvk, ?_⟩
  rw [State.entries, State.entries, hvk]
  refine List.map_congr_left fun j hj => ?_
  have hj := List.mem_range.1 hj
  obtain ⟨hsym, hlen⟩ := hpairs j hj
  rw [hentries j (huk ▸ hj), hread (by omega) hsym, hread (by omega) hlen]

end Sys2Proof.Machine

namespace Sys2Proof.Machine

open Sys2Proof

/-! ### Bytes written at consecutive addresses -/

/-- The bytes of a list written from address `a` on. -/
def Memory.writeBytes (m : Memory) (a : Nat) : List Byte → Memory
  | [] => m
  | v :: vs => Memory.writeBytes (Memory.write m a v) (a + 1) vs

theorem Memory.writeBytes_concat (m : Memory) (a : Nat) (vs : List Byte) (v : Byte) :
    Memory.writeBytes m a (vs ++ [v]) = Memory.write (Memory.writeBytes m a vs) (a + vs.length) v := by
  induction vs generalizing m a with
  | nil => rfl
  | cons w vs ih =>
    rw [List.length_cons, Nat.add_comm vs.length, ← Nat.add_assoc]
    exact ih _ _

theorem Memory.lookup_writeBytes_of_outside {m : Memory} {a c : Nat} {vs : List Byte}
    (h : ∀ i, i < vs.length → c ≠ a + i) : Memory.lookup (Memory.writeBytes m a vs) c = Memory.lookup m c := by
  induction vs generalizing m a with
  | nil => rfl
  | cons v vs ih =>
    have htail : ∀ i, i < vs.length → c ≠ a + 1 + i := fun i hi => by
      have := h (i + 1) (Nat.succ_lt_succ hi)
      omega
    exact (ih htail).trans (Memory.lookup_write_ne m v (h 0 (Nat.succ_pos _)).symm)

theorem Memory.lookup_writeBytes {m : Memory} {a i : Nat} {vs : List Byte} (h : i < vs.length) :
    Memory.lookup (Memory.writeBytes m a vs) (a + i) = vs[i]? := by
  induction vs generalizing m a i with
  | nil => exact absurd h (Nat.not_lt_zero i)
  | cons v vs ih =>
    cases i with
    | zero =>
      have houtside : ∀ i, i < vs.length → a ≠ a + 1 + i := fun i _ => by omega
      exact (lookup_writeBytes_of_outside houtside).trans (Memory.lookup_write_same m a v)
    | succ i =>
      rw [List.getElem?_cons_succ, ← ih (Nat.lt_of_succ_lt_succ h), Nat.add_right_comm]
      rfl

/-! ### Bits put one by one (R171) -/

/-- PutBit for each bit of a string in turn. -/
def putString (bits : List Bool) (p : Packer) : Packer := bits.foldl (fun p b => putBit b p) p

/-- The codeword an EM entry stands for. -/
def MapEntry.codeword (e : MapEntry) : List Bool := Contract.bitString e.len.toNat e.code

theorem putString_append (xs ys : List Bool) (p : Packer) : putString (xs ++ ys) p = putString ys (putString xs p) :=
  List.foldl_append

/-- PutCode's loop counts down from the most significant bit (R171, R63). -/
theorem putBits_eq_putString (c : Code) (n : Nat) (p : Packer) :
    putBits c n p = putString (Contract.bitString n c) p := by
  induction n generalizing p with
  | zero => rfl
  | succ n ih =>
    have hbits : Contract.bitString (n + 1) c = c.getLsbD n :: Contract.bitString n c := by
      simp [Contract.bitString, List.range_succ_eq_map, Nat.sub_sub, Nat.add_comm]
    rw [hbits]
    exact ih _

section

variable {em : Vector MapEntry 256} {b : Byte} {bs : List Byte}

theorem putCode_of_valid (h : (tget em b.toNat).valid = true) (p : Packer) :
    putCode em b p = .ok (putString (tget em b.toNat).codeword p) := by
  rw [MapEntry.codeword, ← putBits_eq_putString]
  exact if_pos h

theorem putCode_of_missing (h : (tget em b.toNat).valid = false) (p : Packer) : putCode em b p = .miss b :=
  if_neg (Bool.eq_false_iff.1 h)

theorem packScan_cons_of_valid (hb : b ≠ Config.cr) (h : (tget em b.toNat).valid = true) (p : Packer) :
    packScan em (b :: bs) p = packScan em bs (putString (tget em b.toNat).codeword p) := by
  rw [packScan, if_neg hb, putCode_of_valid h]

theorem packScan_cons_of_missing (hb : b ≠ Config.cr) (h : (tget em b.toNat).valid = false) (p : Packer) :
    packScan em (b :: bs) p = .miss b := by
  rw [packScan, if_neg hb, putCode_of_missing h]

/-- Where no lookup misses, PACK's scan puts the codewords of the extended message in turn (R172). -/
theorem packScan_of_valid (h : ∀ b ∈ Contract.extended bs, (tget em b.toNat).valid = true) (p : Packer) :
    packScan em bs p =
      .ok (putString ((Contract.extended bs).flatMap fun b => (tget em b.toNat).codeword) p) := by
  induction bs generalizing p with
  | nil =>
    rw [show Contract.extended [] = [Config.term] from rfl, List.flatMap_singleton]
    exact putCode_of_valid (h _ List.mem_cons_self) p
  | cons b bs ih =>
    rw [Contract.extended_cons] at h ⊢
    by_cases hb : b = Config.cr
    · rw [if_pos hb] at h ⊢
      rw [packScan, if_pos hb, ih h]
    · rw [if_neg hb, List.forall_mem_cons] at h
      obtain ⟨hvalid, h⟩ := h
      rw [if_neg hb, packScan_cons_of_valid hb hvalid, ih h, List.flatMap_cons, putString_append]

/-- Where some lookup misses, PACK's scan ends at the first byte without an entry (R174). -/
theorem packScan_of_missing (h : ∃ b ∈ Contract.extended bs, (tget em b.toNat).valid = false) (p : Packer) :
    ∃ b ∈ Contract.extended bs, (tget em b.toNat).valid = false ∧ packScan em bs p = .miss b := by
  induction bs generalizing p with
  | nil =>
    obtain ⟨b, hmem, hmiss⟩ := h
    obtain rfl := List.mem_singleton.1 hmem
    exact ⟨_, hmem, hmiss, putCode_of_missing hmiss p⟩
  | cons b bs ih =>
    rw [Contract.extended_cons] at h ⊢
    by_cases hb : b = Config.cr
    · rw [if_pos hb] at h ⊢
      rw [packScan, if_pos hb]
      exact ih h p
    · rw [if_neg hb] at h ⊢
      cases hvalid : (tget em b.toNat).valid with
      | false => exact ⟨b, List.mem_cons_self, hvalid, packScan_cons_of_missing hb hvalid p⟩
      | true =>
        obtain ⟨c, hmem, hmiss⟩ := h
        obtain rfl | hmem := List.mem_cons.1 hmem
        · exact absurd hmiss (by simp [hvalid])
        · rw [packScan_cons_of_valid hb hvalid]
          obtain ⟨d, hd, hscan⟩ := ih ⟨c, hmem, hmiss⟩ _
          exact ⟨d, List.mem_cons_of_mem b hd, hscan⟩

end

/-- Settles O37: PACK answers the fault its scan ends with. -/
theorem packLookupMissIsFault : Obligations.PackLookupMissIsFault := by
  intro s h
  obtain ⟨b, hmem, hmiss, hscan⟩ := packScan_of_missing h s.packer
  refine ⟨b, hmem, hmiss, ?_⟩
  show execPack s = _
  rw [execPack, hscan]

/-! ### What the packer holds after some bits of a stream (R172, R173) -/

section

variable (bits : List Bool)

/-- The first `n` bits of byte `i` of a stream, as ACC holds them. -/
def accBits (i n : Nat) : Byte :=
  (List.range n).foldl (fun v j => (v <<< 1) ||| (BitVec.ofBool (bits.getD (8 * i + j) false)).setWidth 8) 0

theorem byteAt_eq_accBits (i : Nat) : Contract.byteAt bits i = accBits bits i 8 := rfl

theorem accBits_succ (i n : Nat) :
    accBits bits i (n + 1) =
      (accBits bits i n <<< 1) ||| (BitVec.ofBool (bits.getD (8 * i + n) false)).setWidth 8 := by
  rw [accBits, List.range_succ, List.foldl_append]
  rfl

/-- Past the end of the stream the bits are 0, so they shift the ones before them (R173). -/
theorem accBits_past_end {i n : Nat} (h : bits.length ≤ 8 * i + n) (d : Nat) :
    accBits bits i (n + d) = accBits bits i n <<< d := by
  induction d with
  | zero => simp
  | succ d ih =>
    have hbit : bits.getD (8 * i + (n + d)) false = false := List.getD_eq_default _ _ (by omega)
    rw [← Nat.add_assoc, accBits_succ, ih, hbit, BitVec.shiftLeft_add]
    simp

/-- The first `k` bytes of the stream. -/
def streamBytes (k : Nat) : List Byte := (List.range k).map (Contract.byteAt bits)

theorem length_streamBytes (k : Nat) : (streamBytes bits k).length = k := by simp [streamBytes]

theorem streamBytes_succ (k : Nat) : streamBytes bits (k + 1) = streamBytes bits k ++ [Contract.byteAt bits k] := by
  simp [streamBytes, List.range_succ]

variable (m : Memory) (a : Nat)

/-- The packer once `n` bits of the stream are put, the first of them with OPTR at `a`. -/
def packed (n : Nat) : Packer where
  acc := accBits bits (n / 8) (n % 8)
  nbits := BitVec.ofNat 3 n
  obuf := Memory.writeBytes m a (streamBytes bits (n / 8))
  optr := a + n / 8

theorem toNat_nbits_packed (n : Nat) : (packed bits m a n).nbits.toNat = n % 8 := BitVec.toNat_ofNat n 3

/-- Byte `k` of the stream goes out once the bytes before it are out. -/
theorem write_streamBytes (k : Nat) :
    Memory.write (Memory.writeBytes m a (streamBytes bits k)) (a + k) (accBits bits k 8) =
      Memory.writeBytes m a (streamBytes bits (k + 1)) := by
  rw [streamBytes_succ, Memory.writeBytes_concat, length_streamBytes, byteAt_eq_accBits]

theorem putBit_packed (n : Nat) :
    putBit (bits.getD n false) (packed bits m a n) = packed bits m a (n + 1) := by
  have hacc : ((packed bits m a n).acc <<< 1) ||| (BitVec.ofBool (bits.getD n false)).setWidth 8 =
      accBits bits (n / 8) (n % 8 + 1) := by
    rw [accBits_succ, Nat.div_add_mod]
    rfl
  have hnbits := toNat_nbits_packed bits m a n
  obtain ⟨h7, e⟩ | ⟨h7, e⟩ := putBit_cases (bits.getD n false) (packed bits m a n)
  · have hmod : n % 8 = 7 := by rw [← hnbits, h7]; rfl
    have hdiv : (n + 1) / 8 = n / 8 + 1 := by omega
    have hmod' : (n + 1) % 8 = 0 := by omega
    have hzero : BitVec.ofNat 3 (n + 1) = 0 := BitVec.eq_of_toNat_eq (by simpa using hmod')
    rw [e, hacc, hmod, packed.eq_def bits m a (n + 1), hdiv, hmod', hzero, ← write_streamBytes]
    rfl
  · have hmod : n % 8 ≠ 7 := fun h => h7 (BitVec.eq_of_toNat_eq (hnbits.trans h))
    have hdiv : (n + 1) / 8 = n / 8 := by omega
    have hmod' : (n + 1) % 8 = n % 8 + 1 := by omega
    rw [e, hacc, packed.eq_def bits m a (n + 1), hdiv, hmod', BitVec.ofNat_add]
    rfl

theorem putString_take {n : Nat} (h : n ≤ bits.length) :
    putString (bits.take n) (packed bits m a 0) = packed bits m a n := by
  induction n with
  | zero => rfl
  | succ n ih =>
    rw [← putBit_packed, ← ih (Nat.le_of_succ_le h), List.getD_eq_getElem _ _ h, ← List.take_concat_get' bits n h,
      putString_append]
    rfl

theorem putString_empty_packer : putString bits ⟨0, 0, m, a⟩ = packed bits m a bits.length := by
  rw [← putString_take bits m a le_rfl, List.take_length]
  rfl

/-- Padding completes the last byte with zero bits (R173). -/
theorem pad_packed :
    pad (packed bits m a bits.length) =
      { acc := 0, nbits := 0
        obuf := Memory.writeBytes m a (Contract.packBytes bits)
        optr := a + (Contract.packBytes bits).length } := by
  have hpayload : Contract.packBytes bits = streamBytes bits ((bits.length + 7) / 8) := rfl
  have hnbits := toNat_nbits_packed bits m a bits.length
  rw [hpayload, length_streamBytes]
  by_cases h : (packed bits m a bits.length).nbits = 0
  · have hmod : bits.length % 8 = 0 := by rw [← hnbits, h]; rfl
    have hdiv : (bits.length + 7) / 8 = bits.length / 8 := by omega
    have hzero : BitVec.ofNat 3 bits.length = 0 := h
    rw [pad, if_pos h, packed, hmod, hzero, hdiv]
    rfl
  · have hmod : bits.length % 8 ≠ 0 := fun h0 => h (BitVec.eq_of_toNat_eq (hnbits.trans h0))
    have hdiv : (bits.length + 7) / 8 = bits.length / 8 + 1 := by omega
    have hacc : (packed bits m a bits.length).acc <<< (8 - bits.length % 8) = accBits bits (bits.length / 8) 8 := by
      have hpast := accBits_past_end bits (Nat.div_add_mod bits.length 8).ge (8 - bits.length % 8)
      rw [Nat.add_sub_cancel' (Nat.mod_lt _ (by decide)).le] at hpast
      exact hpast.symm
    rw [pad, if_neg h, hnbits, hacc, hdiv, ← write_streamBytes]
    rfl

end

/-- PACK's scan puts the bits of the codewords, and padding completes the last byte (R172, R173). -/
theorem exec_pack {s : State} (hacc : s.acc = 0) (hnbits : s.nbits = 0)
    (h : ∀ b ∈ Contract.extended s.message, (tget s.em b.toNat).valid = true) :
    let payload := Contract.packBytes ((Contract.extended s.message).flatMap fun b => (tget s.em b.toNat).codeword)
    exec .pack s = .next { s with
      status := .done none, olen := s.optr + payload.length, phase := phIdle
      acc := 0, nbits := 0, iptr := s.ilen
      optr := s.optr + payload.length, obuf := Memory.writeBytes s.obuf s.optr payload } := by
  intro payload
  show execPack s = _
  rw [execPack, packScan_of_valid h, State.packer, hacc, hnbits]
  dsimp only
  rw [putString_empty_packer, pad_packed]
  rfl

/-- Settles O36: PACK writes the packed codewords out from OPTR on, and each byte is read back at its address. -/
theorem packWritesCodewords : Obligations.PackWritesCodewords := fun _ hacc hnbits h =>
  ⟨_, exec_pack hacc hnbits h, rfl, fun _ hi => Memory.lookup_writeBytes hi,
    fun _ ha => Memory.lookup_writeBytes_of_outside ha⟩

end Sys2Proof.Machine

namespace Sys2Proof.Machine

open Sys2Proof

/-! ### The candidate string (R182, R184) -/

/-- A code that has one bit more reads as the same codeword with that bit at its end (R10, R63). -/
theorem bitString_succ {x c : Code} {b : Bool} (n : Nat) (h : x.toNat = 2 * c.toNat + b.toNat) :
    Contract.bitString (n + 1) x = Contract.bitString n c ++ [b] := by
  have hx : x.toNat = Nat.bit b c.toNat := h.trans (Nat.bit_val b _).symm
  have hlast : x.getLsbD 0 = b := by rw [← BitVec.testBit_toNat, hx, Nat.testBit_bit_zero]
  have hnext (i : Nat) : x.getLsbD (i + 1) = c.getLsbD i := by
    rw [← BitVec.testBit_toNat, ← BitVec.testBit_toNat, hx, Nat.testBit_bit_succ]
  rw [Contract.bitString, List.range_succ, List.map_append, List.map_singleton, Nat.add_sub_cancel, Nat.sub_self, hlast]
  refine congrArg (· ++ [b]) (List.map_congr_left fun i hi => ?_)
  have hi : i < n := List.mem_range.1 hi
  rw [← hnext, show n - 1 - i + 1 = n - i by omega]

/-- A code that fits its length is given by its codeword (R148). -/
theorem code_eq_of_bitString_eq {n : Nat} {c d : Code} (hc : c.toNat < 2 ^ n) (hd : d.toNat < 2 ^ n)
    (h : Contract.bitString n c = Contract.bitString n d) : c = d := by
  have hdiv := div_eq_of_bitString_prefix hc hd (h ▸ List.prefix_rfl)
  exact BitVec.eq_of_toNat_eq (by simpa using hdiv.symm)

@[simp] theorem length_codeword (r : CodeEntry) : (Contract.codeword r).length = r.len.toNat := length_bitString _ _

/-- CAND and CANDLEN hold the candidate string `c`. Past 255 bits CANDLEN says no more than that, and CAND is free
(R41, R184). -/
structure Unpacker.Holds (u : Unpacker) (c : List Bool) : Prop where
  candlen : u.candlen.toNat = min c.length 256
  cand_lt : c.length ≤ 255 → u.cand.toNat < 2 ^ c.length
  cand_bits : c.length ≤ 255 → Contract.bitString c.length (u.cand.setWidth 264) = c

namespace Unpacker

variable {u : Unpacker} {c : List Bool}

theorem holds_nil (hcand : u.cand = 0) (hlen : u.candlen = 0) : u.Holds [] where
  candlen := congrArg BitVec.toNat hlen
  cand_lt _ := by rw [hcand]; decide
  cand_bits _ := rfl

/-- Shifting a bit into a value with room for it (R10). -/
theorem toNat_append_bit {v : Cand} (h : v.toNat < 2 ^ 254) (b : Bool) :
    ((v <<< 1) ||| (BitVec.ofBool b).setWidth 255).toNat = 2 * v.toNat + b.toNat := by
  have hb : ((BitVec.ofBool b).setWidth 255).toNat = b.toNat := by cases b <;> rfl
  rw [BitVec.toNat_or, BitVec.toNat_shiftLeft, hb, Nat.mod_eq_of_lt (by omega),
    ← Nat.shiftLeft_add_eq_or_of_lt (by simpa using b.toNat_lt)]
  omega

/-- Appending a bit to the candidate registers appends it to the string they hold (R182, R184). -/
theorem Holds.grow (h : u.Holds c) (b : Bool) : (u.grow b).Holds (c ++ [b]) := by
  have hlen := h.candlen
  have hgrown : (c ++ [b]).length = c.length + 1 := List.length_append
  rw [Unpacker.grow]
  split
  case isTrue hfull =>
    have hlong : 255 ≤ c.length := by bv_omega
    exact
      { candlen := by rw [hgrown, Nat.min_eq_right (by omega)]; rfl
        cand_lt := by omega
        cand_bits := by omega }
  case isFalse hroom =>
    have hshort : c.length ≤ 254 := by bv_omega
    have hlt := h.cand_lt (by omega)
    have hval := toNat_append_bit (hlt.trans_le (Nat.pow_le_pow_right (by decide) hshort)) b
    have hwide (v : Cand) : (v.setWidth 264).toNat = v.toNat := BitVec.toNat_setWidth_of_le (by decide)
    refine ⟨?_, fun _ => ?_, fun _ => ?_⟩ <;> rw [hgrown]
    · show (u.candlen + 1).toNat = _
      bv_omega
    · have := b.toNat_le
      rw [pow_succ, hval]
      omega
    · rw [bitString_succ (c := u.cand.setWidth 264) (b := b), h.cand_bits (by omega)]
      rw [hwide, hwide, hval]

end Unpacker

/-- A row is matchable with the candidate for its codeword exactly where its length and code are the candidate's
(R148, R183). -/
theorem Unpacker.Holds.codeword_eq_iff {u : Unpacker} {c : List Bool} (h : u.Holds c) (hc : c ≠ [])
    (hle : c.length ≤ 255) (r : CodeEntry) :
    (Contract.matchable r = true ∧ Contract.codeword r = c) ↔
      (r.len.setWidth 9 = u.candlen ∧ r.code = u.cand.setWidth 264) := by
  have hpos : 0 < c.length := List.length_pos_iff.2 hc
  have hlen := h.candlen
  have hrow : r.len.setWidth 9 = u.candlen ↔ r.len.toNat = c.length := by
    constructor <;> intro e <;> bv_omega
  have hlt : (u.cand.setWidth 264).toNat < 2 ^ c.length :=
    (BitVec.toNat_setWidth_of_le (by decide : 255 ≤ 264)).trans_lt (h.cand_lt hle)
  rw [hrow, Contract.matchable, Bool.and_eq_true, decide_eq_true_iff, decide_eq_true_iff]
  constructor
  · rintro ⟨⟨-, hfits⟩, hword⟩
    have hrlen : r.len.toNat = c.length := by rw [← hword, length_codeword]
    refine ⟨hrlen, code_eq_of_bitString_eq (hrlen ▸ hfits) hlt ?_⟩
    rw [h.cand_bits hle, ← hrlen]
    exact hword
  · rintro ⟨hrlen, hcode⟩
    rw [Contract.codeword, hrlen, hcode]
    exact ⟨⟨hpos, hlt⟩, h.cand_bits hle⟩

/-- Where the registers hold a non-empty candidate, `Match` finds the first matchable row of that codeword; a candidate
of more than 255 bits is no row's (R148, R183, R184). -/
theorem Unpacker.Holds.find?_codeTable {u : Unpacker} {c : List Bool} (h : u.Holds c) (hc : c ≠ [])
    (rows : List CodeEntry) :
    (Contract.codeTable rows).find? (fun w => w.1 == c) =
      (matchRow rows u.candlen u.cand).map (fun r => (Contract.codeword r, r.sym)) := by
  have hpos : 0 < c.length := List.length_pos_iff.2 hc
  have hlen := h.candlen
  rw [Contract.codeTable, List.find?_map, List.find?_filter, matchRow]
  refine congrArg _ ?_
  split
  case isTrue hends =>
    have hlong : 256 ≤ c.length := by obtain h0 | h256 := hends <;> bv_omega
    refine List.find?_eq_none.2 fun r _ hr => ?_
    have hword : Contract.codeword r = c := by simpa using (of_decide_eq_true hr).2
    have hshort : (Contract.codeword r).length < 256 := (length_codeword r).trans_lt r.len.isLt
    rw [hword] at hshort
    omega
  case isFalse hends =>
    have hshort : c.length ≤ 255 := by
      have : u.candlen ≠ 256 := fun h256 => hends (.inr h256)
      bv_omega
    refine congrArg (rows.find? ·) (funext fun r => Bool.eq_iff_iff.2 ?_)
    simpa using h.codeword_eq_iff hc hshort r

/-! ### The reader against the registers (R182, R202) -/

theorem Memory.writeBytes_append (m : Memory) (a : Nat) (vs ws : List Byte) :
    Memory.writeBytes m a (vs ++ ws) = Memory.writeBytes (Memory.writeBytes m a vs) (a + vs.length) ws := by
  induction vs generalizing m a with
  | nil => rfl
  | cons v vs ih =>
    rw [List.length_cons, Nat.add_comm vs.length, ← Nat.add_assoc]
    exact ih _ _

/-- From one unpacker to another: the symbols `out` have gone out, from OPTR on. -/
structure Unpacker.Outputs (out : List Byte) (u v : Unpacker) : Prop where
  obuf : v.obuf = Memory.writeBytes u.obuf u.optr out
  optr : v.optr = u.optr + out.length

theorem Unpacker.Outputs.trans {out next : List Byte} {u v w : Unpacker} (h : u.Outputs out v) (g : v.Outputs next w) :
    u.Outputs (out ++ next) w where
  obuf := by rw [g.obuf, h.obuf, h.optr, Memory.writeBytes_append]
  optr := by rw [g.optr, h.optr, List.length_append, Nat.add_assoc]

/-- UNPACK and the reader of R202 agree on `bits`, read with the candidate `c` in hand: both stop at the terminator
within them with the same symbols out, or both go on with the same symbols out and the same candidate. -/
inductive Unpacked.Reads (table : List (List Bool × Byte)) (bits c : List Bool) (u : Unpacker) : Unpacked → Prop
  | more {v : Unpacker} {d : List Bool} {out : List Byte} (holds : v.Holds d) (outputs : u.Outputs out v)
      (decodes : ∀ rest, Contract.decodeBits table (bits ++ rest) c =
        (Contract.decodeBits table rest d).map (out ++ ·)) : Reads table bits c u (.more v)
  | stopped {v : Unpacker} {out : List Byte} (outputs : u.Outputs out v)
      (decodes : ∀ rest, Contract.decodeBits table (bits ++ rest) c = some out) : Reads table bits c u (.stopped v)

/-- Going on with `f` unless the terminator has been met. -/
def Unpacked.andThen (f : Unpacker → Unpacked) : Unpacked → Unpacked
  | .more u => f u
  | .stopped u => .stopped u

theorem unpackBits_succ (rows : List CodeEntry) (byte : Byte) (n : Nat) (u : Unpacker) :
    unpackBits rows byte (n + 1) u =
      (unpackBit rows (byte.getLsbD n) { u with bitpos := BitVec.ofNat 3 n }).andThen (unpackBits rows byte n) := by
  rw [unpackBits]
  cases unpackBit rows (byte.getLsbD n) { u with bitpos := BitVec.ofNat 3 n } <;> rfl

theorem unpackScan_cons (rows : List CodeEntry) (b : Byte) (bs : List Byte) (u : Unpacker) :
    unpackScan rows (b :: bs) u =
      (unpackBits rows b 8 u).andThen (fun v => unpackScan rows bs { v with iptr := v.iptr + 1 }) := by
  rw [unpackScan]
  cases unpackBits rows b 8 u <;> rfl

section

variable {table : List (List Bool × Byte)} {bits c : List Bool} {u : Unpacker}

/-- Moving registers other than the candidate's and the output's reads nothing. -/
theorem Unpacked.reads_nil {v : Unpacker} (h : v.Holds c) (ho : u.Outputs [] v) : Reads table [] c u (.more v) :=
  .more h ho fun rest => by simp

/-- Two scans read one after the other what they read apart. -/
theorem Unpacked.Reads.andThen {o : Unpacked} {bits' : List Bool} {f : Unpacker → Unpacked}
    (h : o.Reads table bits c u) (hf : ∀ v d, v.Holds d → (f v).Reads table bits' d v) :
    (o.andThen f).Reads table (bits ++ bits') c u := by
  cases h with
  | stopped outputs decodes => exact .stopped outputs fun rest => by rw [List.append_assoc, decodes]
  | @more v d out holds outputs decodes =>
    show (f v).Reads table (bits ++ bits') c u
    have hnext := hf v d holds
    generalize f v = o at hnext
    cases hnext with
    | more holds' outputs' decodes' =>
      refine .more holds' (outputs.trans outputs') fun rest => ?_
      rw [List.append_assoc, decodes, decodes', Option.map_map]
      simp [Function.comp_def]
    | stopped outputs' decodes' =>
      refine .stopped (outputs.trans outputs') fun rest => ?_
      rw [List.append_assoc, decodes, decodes', Option.map_some]

variable (rows : List CodeEntry)

/-- One payload bit: the reader's table lookup is `Match` on the grown candidate (R182, R202). -/
theorem unpackBit_reads (b : Bool) (h : u.Holds c) :
    (unpackBit rows b u).Reads (Contract.codeTable rows) [b] c u := by
  have hgrow := h.grow b
  have hfind := hgrow.find?_codeTable (by simp) rows
  have hkeep : u.Outputs [] (u.grow b) := ⟨u.obuf_grow b, u.optr_grow b⟩
  obtain ⟨hm, e⟩ | ⟨r, hm, hr, e⟩ | ⟨r, hm, hr, e⟩ := unpackBit_cases rows b u <;> rw [hm] at hfind <;> rw [e]
  · refine .more hgrow hkeep fun rest => ?_
    simp [Contract.decodeBits, hfind]
  · have hemit : (u.grow b).Outputs [r.sym] ((u.grow b).emit r.sym) := ⟨rfl, rfl⟩
    refine .more (Unpacker.holds_nil rfl rfl) (hkeep.trans hemit) fun rest => ?_
    simp [Contract.decodeBits, hfind, hr]
  · refine .stopped hkeep fun rest => ?_
    simp [Contract.decodeBits, hfind, hr]

/-- The `n` lowest bits of a byte, most significant first, as UNPACK reads them (R62, R182). -/
def lowBits (byte : Byte) : Nat → List Bool
  | 0 => []
  | n + 1 => byte.getLsbD n :: lowBits byte n

theorem bitsOf_cons (b : Byte) (bs : List Byte) : Contract.bitsOf (b :: bs) = lowBits b 8 ++ Contract.bitsOf bs := rfl

theorem unpackBits_reads (byte : Byte) (n : Nat) (h : u.Holds c) :
    (unpackBits rows byte n u).Reads (Contract.codeTable rows) (lowBits byte n) c u := by
  induction n generalizing u c with
  | zero => exact Unpacked.reads_nil h ⟨rfl, rfl⟩
  | succ n ih =>
    have hpos : (Unpacked.more { u with bitpos := BitVec.ofNat 3 n }).Reads (Contract.codeTable rows) [] c u :=
      Unpacked.reads_nil { h with } ⟨rfl, rfl⟩
    rw [unpackBits_succ]
    exact (hpos.andThen fun _ _ hv => unpackBit_reads rows (byte.getLsbD n) hv).andThen fun _ _ hv => ih hv

/-- UNPACK's scan reads the payload's bits as the reader of R202 does. -/
theorem unpackScan_reads (bs : List Byte) (h : u.Holds c) :
    (unpackScan rows bs u).Reads (Contract.codeTable rows) (Contract.bitsOf bs) c u := by
  induction bs generalizing u c with
  | nil => exact Unpacked.reads_nil h ⟨rfl, rfl⟩
  | cons b bs ih =>
    rw [unpackScan_cons, bitsOf_cons]
    refine (unpackBits_reads rows b 8 h).andThen fun v d hv => ?_
    have hptr : (Unpacked.more { v with iptr := v.iptr + 1 }).Reads (Contract.codeTable rows) [] d v :=
      Unpacked.reads_nil { hv with } ⟨rfl, rfl⟩
    exact hptr.andThen fun _ _ hw => ih hw

end

/-- Settles O38: the payload is read from the empty candidate, and either the terminator ends it with the symbols
written out from OPTR on, or its bits run out and the command is aborted. -/
theorem unpackDecodesPayload : Obligations.UnpackDecodesPayload := by
  intro s hcand hlen
  have hreads := unpackScan_reads (u := s.unpacker) s.rows (s.inputFrom s.iptr) (Unpacker.holds_nil hcand hlen)
  show ∃ t, execUnpack s = .next t ∧ _
  rw [execUnpack]
  generalize unpackScan s.rows (s.inputFrom s.iptr) s.unpacker = o at hreads
  cases hreads with
  | more _ _ decodes =>
    have hnone := decodes []
    rw [List.append_nil, Contract.decodeBits, Option.map_none] at hnone
    rw [hnone]
    exact ⟨_, rfl, rfl, rfl, rfl⟩
  | stopped outputs decodes =>
    have hsome := decodes []
    obtain ⟨hobuf, hoptr⟩ := outputs
    rw [List.append_nil] at hsome
    rw [hsome]
    refine ⟨_, rfl, rfl, rfl, hoptr, fun i hi => ?_, fun a ha => ?_⟩
    · exact (congrArg (Memory.lookup · _) hobuf).trans (Memory.lookup_writeBytes hi)
    · exact (congrArg (Memory.lookup · _) hobuf).trans (Memory.lookup_writeBytes_of_outside ha)

end Sys2Proof.Machine

namespace Sys2Proof.Machine

open Sys2Proof

/-! ### Runs (R205) -/

section

variable {s t : State} {i : Instr} {e : Event} {es : List Event}

theorem run_succ (h : step s = .next t) (n : Nat) :
    Host.Core.run Sys2Proof.core (n + 1) s = Host.Core.run Sys2Proof.core n t := by
  have h' : Sys2Proof.core.step s = .next t := h
  simp only [Host.Core.run, h']

/-- The finest step takes the next container field where there is one, else the phase operation (R205). -/
theorem step_field {f : Format} {bs : List Byte} (hf : fieldBytes s = some (f, bs)) (hd : decode f bs = .ok i) :
    step { s with sched := .field :: es } = exec i { s with sched := es } := by
  obtain ⟨-, -, -, -, hfield, -⟩ := stepRunsDecodedInstruction { s with sched := .field :: es } i es
  exact hfield f bs hf hd rfl

theorem step_field_none (hf : fieldBytes s = none) (hd : decodePhase s.phase = .ok i) :
    step { s with sched := .field :: es } = exec i { s with sched := es } := by
  obtain ⟨-, -, -, -, -, hwhole⟩ := stepRunsDecodedInstruction { s with sched := .field :: es } i es
  exact hwhole hf hd rfl

/-- A step of the sequencer is the phase operation where no header has been begun (R205). -/
theorem step_core (hb : ¬ s.headerBegun) (hd : decodePhase s.phase = .ok i) :
    step { s with sched := .core :: es } = exec i { s with sched := es } := by
  obtain ⟨-, hcore, -⟩ := stepRunsDecodedInstruction { s with sched := .core :: es } i es
  exact hcore hb hd rfl

/-- A header begun field by field takes its next field, whichever way the sequencer moves (R205). -/
theorem step_begun {f : Format} {bs : List Byte} (hb : s.headerBegun) (hf : fieldBytes s = some (f, bs))
    (hd : decode f bs = .ok i) (he : e = .field ∨ e = .core) :
    step { s with sched := e :: es } = exec i { s with sched := es } := by
  obtain ⟨-, -, hbegun, -⟩ := stepRunsDecodedInstruction { s with sched := e :: es } i es
  obtain rfl | rfl := he
  · exact step_field hf hd
  · exact (hbegun f bs hb hf hd).2 rfl

theorem step_idle (hp : s.phase = phIdle) (he : e = .field ∨ e = .core) :
    step { s with sched := e :: es } = .next { s with sched := es } := by
  have hb : ¬ s.headerBegun := not_headerBegun (by rw [hp]; decide) (by rw [hp]; decide)
  have hd : decodePhase s.phase = .ok .idle := by rw [hp]; rfl
  obtain rfl | rfl := he
  · refine step_field_none ?_ hd
    rw [fieldBytes, if_neg (by rw [hp]; decide), if_neg (by rw [hp]; decide)]
  · exact step_core hb hd

/-- Steps of the sequencer pass over an idle block (R211). -/
theorem run_idle (hp : s.phase = phIdle) (hes : ∀ e ∈ es, e = .field ∨ e = .core) :
    Host.Core.run Sys2Proof.core es.length { s with sched := es } = .next { s with sched := [] } := by
  induction es with
  | nil => rfl
  | cons e es ih =>
    obtain ⟨he, hes⟩ := List.forall_mem_cons.1 hes
    rw [List.length_cons, run_succ (step_idle hp he), ih hes]

end

/-! ### HDRR field by field (R160, R205) -/

section

variable {s : State} {e : Event} {es : List Event}

/-- The state once HDRR has taken the count byte and the first `n` pairs of a whole header. -/
def State.readUpTo (s : State) (n : Nat) : State :=
  { s with
    k := s.readIbuf 0
    ent := (List.range n).foldl (readPair s) s.ent
    iptr := payloadAddr n
    phase := if n = (s.readIbuf 0).toNat then phSort else s.phase }

theorem payloadAddr_succ (n : Nat) : payloadAddr (n + 1) = payloadAddr n + 2 := by
  rw [payloadAddr, payloadAddr]
  omega

@[simp] theorem pairAt_payloadAddr (n : Nat) : pairAt (payloadAddr n) = n := pairAt_symAddr n

theorem payloadAddr_ne_zero (n : Nat) : payloadAddr n ≠ 0 := by
  rw [payloadAddr]
  omega

/-- HDRR's next pair as a step of its own. -/
theorem step_readUpTo {n : Nat} (hp : s.phase = phHdrr) (hn : n < (s.readIbuf 0).toNat)
    (he : e = .field ∨ e = .core) :
    step { s.readUpTo n with sched := e :: es } = .next { s.readUpTo (n + 1) with sched := es } := by
  have hphase : (s.readUpTo n).phase = phHdrr := (if_neg hn.ne).trans hp
  have hcursor : (s.readUpTo n).iptr ≠ 0 := payloadAddr_ne_zero n
  have hbytes : fieldBytes (s.readUpTo n) =
      some (.hdrPair, [s.readIbuf (payloadAddr n), s.readIbuf (payloadAddr n + 1)]) := by
    rw [fieldBytes, if_pos hphase, if_pos hcursor]
    rfl
  rw [step_begun (.inl ⟨hphase, hcursor⟩) hbytes rfl he, execHdrPair_hdrr (by exact hphase)]
  have hent : (List.range (n + 1)).foldl (readPair s) s.ent =
      tset ((List.range n).foldl (readPair s) s.ent) n
        ⟨s.readIbuf (payloadAddr n), s.readIbuf (payloadAddr n + 1)⟩ := by
    rw [List.range_succ, List.foldl_append, payloadAddr, Nat.add_right_comm]
    rfl
  have hend := endOfHeader_pairs (k := s.readIbuf 0) hn phHdrr phSort
  rw [payloadAddr_succ] at hend
  simp only [State.readUpTo, pairAt_payloadAddr, hend, payloadAddr_succ, hent, hp]

/-- From any pair on HDRR field by field reads the rest of the header. -/
theorem run_readUpTo {n : Nat} (hp : s.phase = phHdrr) (hn : n + es.length = (s.readIbuf 0).toNat)
    (hes : ∀ e ∈ es, e = .field ∨ e = .core) :
    Host.Core.run Sys2Proof.core es.length { s.readUpTo n with sched := es } =
      .next { s.readUpTo (s.readIbuf 0).toNat with sched := [] } := by
  induction es generalizing n with
  | nil =>
    rw [← hn]
    rfl
  | cons e es ih =>
    obtain ⟨he, hes⟩ := List.forall_mem_cons.1 hes
    rw [List.length_cons] at hn ⊢
    rw [run_succ (step_readUpTo hp (by omega) he), ih (by omega) hes]

/-! The three ways HDRR aborts (R160, R216, R218). -/

theorem exec_hdrr_of_empty (h : s.ilen = 0) : exec .hdrr s = .next (s.raise .truncatedHeader) :=
  if_pos (by rw [h]; exact Nat.one_pos)

theorem exec_hdrr_of_zero (h : s.ilen ≠ 0) (hk : s.readIbuf 0 = 0) :
    exec .hdrr s = .next ({ s with k := 0 }.raise .invalidSymbolCount) := by
  show execHdrr s = _
  rw [execHdrr, if_neg (by omega), hk, withCount_zero]

theorem exec_hdrr_of_short (h : s.ilen ≠ 0) (hk : s.readIbuf 0 ≠ 0) (hlt : s.ilen < payloadAddr (s.readIbuf 0).toNat) :
    exec .hdrr s = .next ({ s with k := s.readIbuf 0 }.raise .truncatedHeader) := by
  show execHdrr s = _
  rw [execHdrr, if_neg (by omega), withCount_of_short hk hlt]

/-- HDRR aborts, or reads a whole header (R160). -/
theorem exec_hdrr_cases (s : State) :
    (∃ u e, exec .hdrr s = .next (State.raise e u)) ∨
    exec .hdrr s = .next { s with
      k := s.readIbuf 0
      ent := (List.range (s.readIbuf 0).toNat).foldl (readPair s) s.ent
      iptr := payloadAddr (s.readIbuf 0).toNat
      phase := phSort } := by
  by_cases h : s.ilen = 0
  · exact .inl ⟨_, _, exec_hdrr_of_empty h⟩
  · by_cases hk : s.readIbuf 0 = 0
    · exact .inl ⟨_, _, exec_hdrr_of_zero h hk⟩
    · by_cases hlt : s.ilen < payloadAddr (s.readIbuf 0).toNat
      · exact .inl ⟨_, _, exec_hdrr_of_short h hk hlt⟩
      · exact .inr (exec_hdrr_of_whole hk (Nat.not_lt.1 hlt))

/-- Where there is no count byte, HDRR begun with a field is HDRR (R160). -/
theorem step_hdrr_empty (hp : s.phase = phHdrr) (hi : s.iptr = 0) (h : s.ilen = 0) :
    step { s with sched := .field :: es } = .next { s.raise .truncatedHeader with sched := es } := by
  have hbytes : fieldBytes s = none := by rw [fieldBytes, if_pos hp, if_neg (not_not.2 hi), if_pos h]
  exact (step_field_none hbytes (by rw [hp]; rfl)).trans (exec_hdrr_of_empty h)

/-- HDRR's first field: the count byte. -/
theorem step_hdrr_count (hp : s.phase = phHdrr) (hi : s.iptr = 0) (h : s.ilen ≠ 0) :
    step { s with sched := .field :: es } =
      .next (withCount (s.readIbuf 0) { s with sched := es } fun t => { t with iptr := 1 }) := by
  have hbytes : fieldBytes s = some (.hdrK, [s.readIbuf 0]) := by
    rw [fieldBytes, if_pos hp, if_neg (not_not.2 hi), if_neg h]
  exact (step_field hbytes rfl).trans (execHdrK_hdrr (by exact hp) _)

/-- Where the whole header is there, the count byte leaves the pairs to read. -/
theorem count_readUpTo (hk : s.readIbuf 0 ≠ 0) : { s with k := s.readIbuf 0, iptr := 1 } = s.readUpTo 0 := by
  have hk0 : 0 ≠ (s.readIbuf 0).toNat := fun h0 => hk (BitVec.eq_of_toNat_eq h0.symm)
  rw [State.readUpTo, if_neg hk0]
  rfl

end

/-- Settles O34: the first field ends in HDRR's own abort, which the other steps leave, or begins a whole header, of which
each further step takes one pair. -/
theorem hdrrFieldByFieldIsHdrr : Obligations.HdrrFieldByFieldIsHdrr := by
  intro s es hp hi hlen hes
  rw [Nat.add_comm, ← hlen]
  by_cases hz : s.ilen = 0
  · rw [run_succ (step_hdrr_empty hp hi hz), run_idle rfl hes]
    exact (exec_hdrr_of_empty (s := { s with sched := [] }) hz).symm
  · rw [run_succ (step_hdrr_count hp hi hz)]
    by_cases hk : s.readIbuf 0 = 0
    · rw [hk, withCount_zero]
      exact (run_idle (s := { s with k := 0 }.raise .invalidSymbolCount) rfl hes).trans
        (exec_hdrr_of_zero (s := { s with sched := [] }) hz hk).symm
    · by_cases hshort : s.ilen < payloadAddr (s.readIbuf 0).toNat
      · rw [withCount_of_short hk (by exact hshort)]
        exact (run_idle (s := { s with k := s.readIbuf 0 }.raise .truncatedHeader) rfl hes).trans
          (exec_hdrr_of_short (s := { s with sched := [] }) hz hk hshort).symm
      · have hwhole := Nat.not_lt.1 hshort
        have hrun := run_readUpTo (n := 0) hp ((Nat.zero_add _).trans hlen) hes
        rw [← count_readUpTo hk, State.readUpTo, if_pos rfl] at hrun
        rw [withCount_of_whole hk (by exact hwhole)]
        exact hrun.trans (exec_hdrr_of_whole (s := { s with sched := [] }) hk hwhole).symm

/-! ### HDRW field by field (R156, R205) -/

section

variable {s : State} {e : Event} {es : List Event}

/-- The state once HDRW has put out the count byte and the first `n` pairs. -/
def State.wroteUpTo (s : State) (n : Nat) : State :=
  { s with
    obuf := s.headerUpTo n
    optr := payloadAddr n
    phase := if n = s.k.toNat then phPack else s.phase }

/-- HDRW's next pair as a step of its own. -/
theorem step_wroteUpTo {n : Nat} (hp : s.phase = phHdrw) (hn : n < s.k.toNat) (he : e = .field ∨ e = .core) :
    step { s.wroteUpTo n with sched := e :: es } = .next { s.wroteUpTo (n + 1) with sched := es } := by
  have hphase : (s.wroteUpTo n).phase = phHdrw := (if_neg hn.ne).trans hp
  have hcursor : (s.wroteUpTo n).optr ≠ 0 := payloadAddr_ne_zero n
  have hbytes : fieldBytes (s.wroteUpTo n) = some (.hdrPair, [(tget s.ent n).sym, (tget s.ent n).len]) := by
    rw [fieldBytes, if_neg (by rw [hphase]; decide), if_pos hphase, if_pos hcursor]
    simp [State.wroteUpTo]
  rw [step_begun (.inr ⟨hphase, hcursor⟩) hbytes rfl he, execHdrPair_hdrw (by exact hphase)]
  have hend := endOfHeader_pairs hn phHdrw phPack
  rw [payloadAddr_succ] at hend
  simp only [State.wroteUpTo, pairAt_payloadAddr, hend, payloadAddr_succ, State.headerUpTo_succ, hp]

/-- From any pair on HDRW field by field puts out the rest of the header. -/
theorem run_wroteUpTo {n : Nat} (hp : s.phase = phHdrw) (hn : n + es.length = s.k.toNat)
    (hes : ∀ e ∈ es, e = .field ∨ e = .core) :
    Host.Core.run Sys2Proof.core es.length { s.wroteUpTo n with sched := es } =
      .next { s.wroteUpTo s.k.toNat with sched := [] } := by
  induction es generalizing n with
  | nil =>
    rw [← hn]
    rfl
  | cons e es ih =>
    obtain ⟨he, hes⟩ := List.forall_mem_cons.1 hes
    rw [List.length_cons] at hn ⊢
    rw [run_succ (step_wroteUpTo hp (by omega) he), ih (by omega) hes]

/-- The first step of HDRW, one field: the count byte (R156). -/
theorem step_hdrw_first (hp : s.phase = phHdrw) (ho : s.optr = 0) :
    step { s with sched := .field :: es } = .next { s.wroteUpTo 0 with sched := es } := by
  have hbytes : fieldBytes s = some (.hdrK, [s.k]) := by
    rw [fieldBytes, if_neg (by rw [hp]; decide), if_pos hp, if_neg (not_not.2 ho)]
  have hend : endOfHeader 1 s.k phHdrw phPack = if 0 = s.k.toNat then phPack else phHdrw :=
    endOfHeader_pairs (Nat.zero_le _) phHdrw phPack
  rw [step_field hbytes rfl, execHdrK_hdrw (by exact hp), State.wroteUpTo, hp]
  simp only [hend]
  rfl

end

/-- Settles O35: the first field is the count byte, and each further step puts out one pair. -/
theorem hdrwFieldByFieldIsHdrw : Obligations.HdrwFieldByFieldIsHdrw := by
  intro s es hp ho hlen hes
  have hrun := run_wroteUpTo (n := 0) hp ((Nat.zero_add _).trans hlen) hes
  rw [Nat.add_comm, run_succ (step_hdrw_first hp ho), ← hlen, hrun, exec_hdrw, State.wroteUpTo, if_pos rfl]
  rfl

end Sys2Proof.Machine

namespace Sys2Proof.Machine

open Sys2Proof

/-- Settles O3: acceptance in the branch where no command runs, nothing in the other. -/
theorem commandsCompleteWhenNotBusy : Obligations.CommandsCompleteWhenNotBusy := fun _ =>
  ⟨fun hb => ⟨execCompress_accepts hb, execDecompress_accepts hb⟩,
    fun hb => ⟨exec_command_busy hb (.inl rfl), exec_command_busy hb (.inr rfl)⟩⟩

/-- The sequencer runs the phase operation where no event is listed and no header has been begun (R205). -/
theorem step_phase {s : State} {i : Instr} (hs : s.sched = []) (hb : ¬ s.headerBegun)
    (hd : decodePhase s.phase = .ok i) : step s = exec i s :=
  (stepRunsDecodedInstruction s i []).1 hb hd hs

theorem not_headerBegun_of_idle {s : State} (hp : s.phase = phIdle) : ¬ s.headerBegun :=
  not_headerBegun (by rw [hp]; decide) (by rw [hp]; decide)

theorem decodePhase_of_idle {s : State} (hp : s.phase = phIdle) : decodePhase s.phase = .ok .idle := by
  rw [hp]
  rfl

/-- Settles O4: an idle block runs IDLE, which does nothing. -/
theorem idleChangesNoState : Obligations.IdleChangesNoState :=
  ⟨fun _ => rfl, fun _ hp hs => step_phase hs (not_headerBegun_of_idle hp) (decodePhase_of_idle hp)⟩

section

variable {s t : State}

/-! ### What the phases write in any state -/

/-- FREQ in any state, on a message without a byte 0: the scan ends with IPTR at ILEN (R111). -/
theorem exec_freq_of_no_term (h : Config.term ∉ s.message) :
    ∃ t, exec .freq s = .next t ∧
      t = { s with freq := t.freq, ent := t.ent, k := t.k, iptr := s.ilen, phase := phBuild } := by
  show ∃ t, execFreq s = .next t ∧ _
  have hstop := (freqScan_stops_iff s.message { s.counter with iptr := 0 }).not.2 h
  unfold execFreq
  split
  case h_1 e => exact absurd (by rw [e]) hstop
  case h_2 c e =>
    have hiptr : c.iptr = s.ilen := by simpa [State.message] using freqScan_false_iptr e
    refine ⟨_, rfl, ?_⟩
    simp only [State.withCounter, Counter.addTerminator, Counter.addEntry, hiptr]

/-- UNPACK in any state finishes or aborts (R182, R185, R186). -/
theorem exec_unpack_ends (s : State) :
    ∃ t, exec .unpack s = .next t ∧
      t = { s with
        status := t.status, olen := t.olen, phase := phIdle, cand := t.cand, candlen := t.candlen
        bitpos := t.bitpos, iptr := t.iptr, obuf := t.obuf, optr := t.optr, draws := t.draws } ∧
      ((t.status = .done none ∧ t.olen = t.optr) ∨
        (t.status = .done (some .unterminatedPayload) ∧ t.olen = 0)) := by
  show ∃ t, execUnpack s = .next t ∧ _
  unfold execUnpack
  split
  · exact ⟨_, rfl, rfl, .inl ⟨rfl, rfl⟩⟩
  · exact ⟨_, rfl, rfl, .inr ⟨rfl, rfl⟩⟩

/-- BUILD in any state; with an entry it draws no free value (R121). -/
theorem exec_build_completes (s : State) :
    ∃ t, exec .build s = .next t ∧
      t = { s with node := t.node, pq := t.pq, nn := t.nn, root := t.root, draws := t.draws, phase := phDepth } ∧
      (s.k ≠ 0 → t.draws = s.draws) := by
  by_cases hk : s.k = 0
  · obtain ⟨r, d, e⟩ := execBuild_eq s
    exact ⟨_, e, rfl, absurd hk⟩
  · obtain ⟨t, he, ht, -⟩ := exec_build hk
    exact ⟨t, he, by rw [ht], fun _ => by rw [ht]⟩

end

/-- Settles O26: each phase by the lemma that says what it does in any state. -/
theorem phasesCompleteInEveryState : Obligations.PhasesCompleteInEveryState := by
  intro s
  obtain ⟨td, hdepth, htd, -⟩ := exec_depth s
  obtain ⟨ts, hsort, hts, -⟩ := exec_sort s
  obtain ⟨ta, hassign, hta, -⟩ := exec_assign s
  refine ⟨exec_freq_of_no_term, exec_build_completes s, ⟨td, hdepth, by rw [htd]⟩, ⟨ts, hsort, hts⟩,
    ⟨ta, hassign, by rw [hta]⟩, ⟨_, exec_hdrw s, rfl⟩, fun hacc hnbits hvalid => ⟨_, exec_pack hacc hnbits hvalid, rfl⟩,
    exec_unpack_ends s⟩

/-! ### How a command ends (R199, R226, R241) -/

/-- The state is as an instruction that ends a command leaves it: the finish sequence or an abort. -/
def State.Ended (t : State) : Prop :=
  t.phase = phIdle ∧ ((t.status = .done none ∧ t.olen = t.optr) ∨ ∃ e, t.status = .done (some e) ∧ t.olen = 0)

section

variable {s t : State} {i : Instr}

theorem ended_finish (s : State) : s.finish.Ended := ⟨rfl, .inl ⟨rfl, rfl⟩⟩

theorem ended_raise (e : ErrorKind) (s : State) : (s.raise e).Ended := ⟨rfl, .inr ⟨e, rfl, rfl⟩⟩

/-- The tests of the count byte abort, or leave STATUS to the rest. -/
theorem withCount_running_or_ended (k : Byte) {go : State → State} (h : (go { s with k := k }).busy) :
    (withCount k s go).busy ∨ (withCount k s go).Ended := by
  obtain ⟨-, e⟩ | ⟨-, -, e⟩ | ⟨-, -, e⟩ := withCount_cases k s go <;> rw [e]
  · exact .inr (ended_raise _ _)
  · exact .inr (ended_raise _ _)
  · exact .inl h

/-- While a command runs an instruction leaves STATUS, or ends the command (R199, R226). -/
theorem exec_running_or_ended (hb : s.busy) (h : exec i s = .next t) : t.busy ∨ t.Ended := by
  have keeps (e : t.status = s.status) : t.busy ∨ t.Ended := .inl (e.trans hb)
  cases i with
  | compress => exact keeps (by cases (exec_command_busy hb (.inl rfl)).symm.trans h; rfl)
  | decompress => exact keeps (by cases (exec_command_busy hb (.inr rfl)).symm.trans h; rfl)
  | idle | init | depth | sort | hdrw => cases h; exact keeps rfl
  | build =>
    obtain ⟨u, he, hu, -⟩ := exec_build_completes s
    cases he.symm.trans h
    exact keeps (by rw [hu])
  | assign =>
    obtain ⟨u, he, hu, -⟩ := exec_assign s
    cases he.symm.trans h
    exact keeps (by rw [hu])
  | freq =>
    change execFreq s = .next t at h
    unfold execFreq at h
    split at h <;> cases h
    · exact .inr (ended_raise _ _)
    · exact keeps rfl
  | pack =>
    change execPack s = .next t at h
    unfold execPack at h
    split at h <;> cases h
    exact .inr (ended_finish _)
  | unpack =>
    change execUnpack s = .next t at h
    unfold execUnpack at h
    split at h <;> cases h
    · exact .inr (ended_finish _)
    · exact .inr (ended_raise _ _)
  | hdrr =>
    obtain ⟨u, e, hu⟩ | hu := exec_hdrr_cases s <;> cases hu.symm.trans h
    · exact .inr (ended_raise e u)
    · exact keeps rfl
  | hdrK k =>
    change execHdrK k s = .next t at h
    unfold execHdrK at h
    repeat' split at h
    all_goals cases h
    · exact withCount_running_or_ended _ hb
    · exact keeps rfl
    · exact keeps rfl
  | hdrPair sym len =>
    change execHdrPair sym len s = .next t at h
    unfold execHdrPair at h
    repeat' split at h
    all_goals cases h
    all_goals exact keeps rfl

/-- No host access but reset writes STATUS (R23). -/
theorem hostAccess_keeps_status {e : Event} (h : e ≠ .reset) (s : State) : (hostAccess e s).status = s.status := by
  unfold hostAccess
  split
  · cases e with
    | reset => exact absurd rfl h
    | readObuf a =>
      show (s.hostReadObuf a).status = s.status
      unfold State.hostReadObuf
      split
      · rfl
      · split <;> rfl
    | writeIlen | writeIbuf | readOlen =>
      unfold doAccess
      dsimp only
      split <;> rfl
    | _ => rfl
  · rfl

end

/-- Settles O8: an instruction leaves STATUS or ends the command, and of the host's events reset alone writes STATUS. -/
theorem busyEndsByFinishAbortOrReset : Obligations.BusyEndsByFinishAbortOrReset := by
  intro s t h hb hnb
  obtain ⟨i, -, he⟩ | ⟨e, hs, rfl⟩ := step_cases h
  · obtain ⟨hp, hend⟩ := (exec_running_or_ended (by exact hb) he).resolve_left hnb
    exact ⟨hp, hend.imp_right .inl⟩
  · by_cases hr : e = .reset
    · subst hr
      exact ⟨rfl, .inr (.inr ⟨hs, rfl, rfl⟩)⟩
    · exact absurd ((hostAccess_keeps_status hr { s with sched := s.sched.tail }).trans hb) hnb

/-! ### The sequence table (R198) -/

section

variable {s t : State} {i : Instr} {q : PhaseCode}

/-- The state is as an abort leaves it (R226). -/
def State.Aborted (t : State) : Prop := t.phase = phIdle ∧ t.olen = 0 ∧ ∃ e, t.status = .done (some e)

theorem aborted_raise (e : ErrorKind) (s : State) : (s.raise e).Aborted := ⟨rfl, rfl, e, rfl⟩

/-- Only a phase operation is decoded from PHASE (R96). -/
theorem format_of_decodePhase {c : PhaseCode} (h : decodePhase c = .ok i) : (encode i).1 = .phase :=
  congrArg Prod.fst (encode_of_decodePhase h)

/-- The PHASE code a phase operation writes when it completes without error in a direction. -/
def phaseAfter (d : Dir) : Instr → PhaseCode
  | .init => if d = .compress then phFreq else phHdrr
  | .freq => phBuild
  | .build => phDepth
  | .depth => phSort
  | .sort => phAssign
  | .assign => if d = .compress then phHdrw else phUnpack
  | .hdrw => phPack
  | .hdrr => phSort
  | _ => phIdle

/-- The sequence table lists what the phase operations write. -/
theorem phaseAfter_of_successor {c : PhaseCode} {d : Dir} (hd : decodePhase c = .ok i)
    (hs : successor c d = some q) : phaseAfter d i = q := by
  have hall : ∀ c : PhaseCode, ∀ i ∈ (decodePhase c).toOption, ∀ q ∈ successor c d, phaseAfter d i = q := by
    cases d <;> decide
  exact hall c i (congrArg Decoded.toOption hd) q hs

/-- What each phase operation writes to PHASE, run from its own code. -/
theorem exec_writes_phaseAfter (hr : Runnable s i) (hi : (encode i).1 = .phase) (he : exec i s = .next t) :
    t.phase = phaseAfter s.dir i ∨ t.Aborted := by
  cases i with
  | compress | decompress | hdrK | hdrPair => cases hi
  | idle => cases he; exact .inl hr
  | init | depth | sort | hdrw => cases he; exact .inl rfl
  | build =>
    obtain ⟨u, hu, e, -⟩ := exec_build_completes s
    cases hu.symm.trans he
    exact .inl (by rw [e]; rfl)
  | assign =>
    obtain ⟨u, hu, e, -⟩ := exec_assign s
    cases hu.symm.trans he
    exact .inl (by rw [e]; rfl)
  | freq =>
    change execFreq s = .next t at he
    unfold execFreq at he
    split at he <;> cases he
    · exact .inr (aborted_raise _ _)
    · exact .inl rfl
  | pack =>
    change execPack s = .next t at he
    unfold execPack at he
    split at he <;> cases he
    exact .inl rfl
  | unpack =>
    obtain ⟨u, hu, e, -⟩ := exec_unpack_ends s
    cases hu.symm.trans he
    exact .inl (by rw [e]; rfl)
  | hdrr =>
    obtain ⟨u, e, hu⟩ | hu := exec_hdrr_cases s <;> cases hu.symm.trans he
    · exact .inr (aborted_raise e u)
    · exact .inl rfl

end

/-- Settles O7: each phase operation writes the code the sequence table lists for it, or aborts. -/
theorem phaseWritesItsSuccessor : Obligations.PhaseWritesItsSuccessor := by
  intro s t i q hd hs he
  rw [← phaseAfter_of_successor hd hs]
  exact exec_writes_phaseAfter (runnable_of_decodePhase hd) (format_of_decodePhase hd) he

end Sys2Proof.Machine

namespace Sys2Proof.Machine

open Sys2Proof

/-! ### How many steps a command has left (R206) -/

/-- The phases left to run in a direction, the one in PHASE among them (R198). -/
def phasesLeft (d : Dir) (c : PhaseCode) : Nat :=
  if c = phIdle then 0
  else if d = .compress then 9 - c.toNat
  else if c = phInit then 5
  else if c = phHdrr then 4
  else if c = phSort then 3
  else if c = phAssign then 2
  else 1

/-- The pairs left of a header that was begun field by field. -/
def State.pairsLeft (s : State) : Nat :=
  (payloadAddr s.k.toNat - if s.phase = phHdrr then s.iptr else s.optr) / 2

/-- The sequencer's steps left to the end of the command: a header begun field by field takes a step for each pair. -/
def State.stepsLeft (s : State) : Nat :=
  if s.headerBegun then s.pairsLeft + phasesLeft s.dir s.phase - 1 else phasesLeft s.dir s.phase

section

variable {s t : State} {i : Instr} {q : PhaseCode}

theorem phasesLeft_le (d : Dir) (c : PhaseCode) : phasesLeft d c ≤ 8 := by
  have hall : ∀ c, phasesLeft d c ≤ 8 := by cases d <;> decide
  exact hall c

/-- Each phase leaves one phase less to run. -/
theorem phasesLeft_successor {d : Dir} {c : PhaseCode} (hc : c ≠ phIdle) (hs : successor c d = some q) :
    phasesLeft d q < phasesLeft d c := by
  have hall : ∀ c : PhaseCode, c ≠ phIdle → ∀ q ∈ successor c d, phasesLeft d q < phasesLeft d c := by
    cases d <;> decide
  exact hall c hc q hs

/-- Every phase is in the sequence table of its direction (R198). -/
theorem Inv.exists_successor (h : Inv s) : ∃ q, successor s.phase s.dir = some q := by
  have hall : ∀ d : Dir, ∀ c : PhaseCode, c.toNat ≤ 10 →
      (c ∈ [phFreq, phBuild, phDepth, phHdrw, phPack] → d = .compress) →
      (c ∈ [phHdrr, phUnpack] → d = .decompress) → (successor c d).isSome = true := by
    intro d
    cases d <;> decide
  exact Option.isSome_iff_exists.1 (hall s.dir s.phase h.phase_assigned h.encoder_dir h.decoder_dir)

theorem stepsLeft_of_begun (h : s.headerBegun) : s.stepsLeft = s.pairsLeft + phasesLeft s.dir s.phase - 1 := if_pos h

theorem stepsLeft_of_not_begun (h : ¬ s.headerBegun) : s.stepsLeft = phasesLeft s.dir s.phase := if_neg h

/-- Where a header was begun the cursor is at a pair of it (R155, R160). -/
theorem Inv.header_cases (h : Inv s) (hb : s.headerBegun) :
    (s.phase = phHdrr ∧ s.dir = .decompress ∧ s.iptr % 2 = 1 ∧ s.iptr < payloadAddr s.k.toNat) ∨
    (s.phase = phHdrw ∧ s.dir = .compress ∧ s.optr % 2 = 1 ∧ s.optr < payloadAddr s.k.toNat) := by
  obtain ⟨hp, hne⟩ | ⟨hp, hne⟩ := hb
  · obtain ⟨hodd, hlt, -⟩ := (h.iptr_hdrr hp).resolve_left hne
    exact .inl ⟨hp, h.decoder_dir (by simp [State.inPhase, hp]), hodd, hlt⟩
  · obtain ⟨hodd, hlt⟩ := (h.optr_hdrw hp).resolve_left hne
    exact .inr ⟨hp, h.encoder_dir (by simp [State.inPhase, hp]), hodd, hlt⟩

/-- The bounds of R206: eight phases, or 255 pairs and three phases. -/
theorem Inv.stepsLeft_le (h : Inv s) : s.stepsLeft ≤ if s.headerBegun then 258 else 8 := by
  by_cases hb : s.headerBegun
  · have hk := s.k.isLt
    rw [stepsLeft_of_begun hb, if_pos hb, State.pairsLeft]
    obtain ⟨hp, hd, hodd, hlt⟩ | ⟨hp, hd, hodd, hlt⟩ := h.header_cases hb <;> rw [payloadAddr] at hlt <;>
      rw [hp, hd, payloadAddr]
    · have hleft : phasesLeft .decompress phHdrr = 4 := rfl
      rw [if_pos rfl, hleft]
      omega
    · have hleft : phasesLeft .compress phHdrw = 2 := rfl
      rw [if_neg (by decide), hleft]
      omega
  · rw [stepsLeft_of_not_begun hb, if_neg hb]
    exact phasesLeft_le _ _

/-- No phase operation writes DIR (R29). -/
theorem exec_keeps_dir (hi : (encode i).1 ≠ .cmd) (he : exec i s = .next t) : t.dir = s.dir := by
  cases i with
  | compress | decompress => exact absurd rfl hi
  | _ =>
    simp only [exec, execIdle, execInit, execFreq, execBuild, execDepth, execSort, execAssign, execHdrw, execPack,
      execHdrr, execUnpack, execHdrK, execHdrPair, withCount] at he
    repeat' split at he
    all_goals cases he
    all_goals rfl

/-- No phase operation begins a header: its cursor is still at 0 (R110). -/
theorem not_headerBegun_of_phase (h : Inv s) (hd : decodePhase s.phase = .ok i) (he : exec i s = .next t)
    (ht : t.phase = phaseAfter s.dir i) : ¬ t.headerBegun := by
  have hr := runnable_of_decodePhase hd
  have hi := format_of_decodePhase hd
  cases i with
  | compress | decompress | hdrK | hdrPair => cases hi
  | init =>
    cases he
    rintro (⟨-, hne⟩ | ⟨-, hne⟩) <;> exact hne rfl
  | assign =>
    have hoptr : s.optr = 0 := h.optr_zero (by rw [State.inPhase, show s.phase = phAssign from hr]; decide)
    obtain ⟨u, hu, e, -⟩ := exec_assign s
    cases hu.symm.trans he
    have hoptr' : t.optr = 0 := by rw [e]; exact hoptr
    rintro (⟨hp, -⟩ | ⟨-, hne⟩)
    · rw [ht, phaseAfter] at hp
      split at hp <;> exact absurd hp (by decide)
    · exact hne hoptr'
  | _ => exact not_headerBegun (by simp [ht, phaseAfter]) (by simp [ht, phaseAfter])

theorem stepsLeft_of_idle (hp : s.phase = phIdle) : s.stepsLeft = 0 := by
  rw [stepsLeft_of_not_begun (not_headerBegun_of_idle hp), hp]
  rfl

/-- A phase run as one step leaves fewer steps. -/
theorem exec_phase_stepsLeft (h : Inv s) (hp : s.phase ≠ phIdle) (hb : ¬ s.headerBegun)
    (hd : decodePhase s.phase = .ok i) (he : exec i s = .next t) : t.stepsLeft < s.stepsLeft := by
  obtain ⟨q, hq⟩ := h.exists_successor
  have hlt := phasesLeft_successor hp hq
  rw [stepsLeft_of_not_begun hb]
  obtain ht | ⟨ht, -⟩ := exec_writes_phaseAfter (runnable_of_decodePhase hd) (format_of_decodePhase hd) he
  · have hdir : t.dir = s.dir := exec_keeps_dir (by rw [format_of_decodePhase hd]; decide) he
    rw [stepsLeft_of_not_begun (not_headerBegun_of_phase h hd he ht), hdir, ht, phaseAfter_of_successor hd hq]
    exact hlt
  · rw [stepsLeft_of_idle ht]
    omega

/-- With no event listed a header begun field by field takes its next field. -/
theorem step_next_field {f : Format} {bs : List Byte} (hs : s.sched = []) (hb : s.headerBegun)
    (hf : fieldBytes s = some (f, bs)) (hd : decode f bs = .ok i) : step s = exec i s := by
  obtain ⟨-, -, hbegun, -⟩ := stepRunsDecodedInstruction s i []
  exact (hbegun f bs hb hf hd).1 hs

/-- The steps left in the header reader: its pairs, then SORT, ASSIGN and UNPACK. -/
theorem stepsLeft_of_hdrr (hp : s.phase = phHdrr) (hd : s.dir = .decompress) (hi : s.iptr ≠ 0) :
    s.stepsLeft = (payloadAddr s.k.toNat - s.iptr) / 2 + 3 := by
  rw [stepsLeft_of_begun (.inl ⟨hp, hi⟩), State.pairsLeft, hp, hd, if_pos rfl]
  rfl

/-- The steps left in the header writer: its pairs, then PACK. -/
theorem stepsLeft_of_hdrw (hp : s.phase = phHdrw) (hd : s.dir = .compress) (ho : s.optr ≠ 0) :
    s.stepsLeft = (payloadAddr s.k.toNat - s.optr) / 2 + 1 := by
  rw [stepsLeft_of_begun (.inr ⟨hp, ho⟩), State.pairsLeft, hp, hd, if_neg (by decide)]
  rfl

/-- A pair of a header begun field by field leaves one pair less, and the last one ends the phase. -/
theorem step_pair_stepsLeft (h : Inv s) (hs : s.sched = []) (hb : s.headerBegun) (he : step s = .next t) :
    t.stepsLeft < s.stepsLeft := by
  obtain ⟨hp, hd, hodd, hlt⟩ | ⟨hp, hd, hodd, hlt⟩ := h.header_cases hb
  · have hi : s.iptr ≠ 0 := by omega
    have hbytes : fieldBytes s = some (.hdrPair, [s.readIbuf s.iptr, s.readIbuf (s.iptr + 1)]) := by
      rw [fieldBytes, if_pos hp, if_pos hi]
    rw [step_next_field hs hb hbytes rfl, execHdrPair_hdrr hp] at he
    cases he
    rw [stepsLeft_of_hdrr hp hd hi]
    by_cases hend : payloadAddr s.k.toNat ≤ s.iptr + 2
    · rw [endOfHeader, if_pos hend, stepsLeft_of_not_begun (not_headerBegun (by simp) (by simp)), hd]
      show 3 < _
      rw [payloadAddr] at hlt ⊢
      omega
    · rw [endOfHeader, if_neg hend]
      refine Eq.trans_lt (stepsLeft_of_hdrr rfl (by exact hd) (Nat.succ_ne_zero _)) ?_
      show (payloadAddr s.k.toNat - (s.iptr + 2)) / 2 + 3 < _
      omega
  · have ho : s.optr ≠ 0 := by omega
    have hbytes : fieldBytes s =
        some (.hdrPair, [(tget s.ent (pairAt s.optr)).sym, (tget s.ent (pairAt s.optr)).len]) := by
      rw [fieldBytes, if_neg (by rw [hp]; decide), if_pos hp, if_pos ho]
    rw [step_next_field hs hb hbytes rfl, execHdrPair_hdrw hp] at he
    cases he
    rw [stepsLeft_of_hdrw hp hd ho]
    by_cases hend : payloadAddr s.k.toNat ≤ s.optr + 2
    · rw [endOfHeader, if_pos hend, stepsLeft_of_not_begun (not_headerBegun (by simp) (by simp)), hd]
      show 1 < _
      rw [payloadAddr] at hlt ⊢
      omega
    · rw [endOfHeader, if_neg hend]
      refine Eq.trans_lt (stepsLeft_of_hdrw rfl (by exact hd) (Nat.succ_ne_zero _)) ?_
      show (payloadAddr s.k.toNat - (s.optr + 2)) / 2 + 1 < _
      omega

/-- A step of a running command leaves fewer steps. -/
theorem step_stepsLeft (h : Inv s) (hs : s.sched = []) (hp : s.phase ≠ phIdle) (he : step s = .next t) :
    t.stepsLeft < s.stepsLeft := by
  by_cases hb : s.headerBegun
  · exact step_pair_stepsLeft h hs hb he
  · obtain ⟨i, hd⟩ := decodePhase_of_assigned h.phase_assigned
    rw [step_phase hs hb hd] at he
    exact exec_phase_stepsLeft h hp hb hd he

/-- With no event listed a step lists none. -/
theorem step_keeps_no_event (hs : s.sched = []) (he : step s = .next t) : t.sched = [] := by
  obtain ⟨i, -, hexec⟩ | ⟨e, hhead, -⟩ := step_cases he
  · obtain ⟨-, -, hsched, -⟩ := exec_keeps_input hexec
    rw [hsched]
    simp [hs]
  · simp [hs] at hhead

/-- The sequencer's steps end a command when none is left. -/
theorem run_ends (n : Nat) (hi : Inv s) (hc : Covered s) (hs : s.sched = []) (hn : s.stepsLeft ≤ n) :
    ∃ t, Host.Core.run Sys2Proof.core n s = .next t ∧ Inv t ∧ t.phase = phIdle := by
  induction n generalizing s with
  | zero =>
    refine ⟨s, rfl, hi, ?_⟩
    by_contra hp
    obtain ⟨t, he, -⟩ := everyStepIsSafe s hi hc
    have := step_stepsLeft hi hs hp he
    omega
  | succ n ih =>
    obtain ⟨t, he, hct⟩ := everyStepIsSafe s hi hc
    rw [run_succ he]
    refine ih (stepKeepsInv s t hi he) hct (step_keeps_no_event hs he) ?_
    by_cases hp : s.phase = phIdle
    · have hstay := idleChangesNoState.2 s hp hs
      rw [hstay] at he
      cases he
      rw [stepsLeft_of_idle hp]
      exact Nat.zero_le n
    · have := step_stepsLeft hi hs hp he
      omega

end

/-- Settles O44: every step leaves fewer steps, of which there are eight at most, or 258 in a header begun field by
field. -/
theorem runningCommandTerminates : Obligations.RunningCommandTerminates := by
  intro s hi hc hs
  obtain ⟨t, hrun, hit, hp⟩ := run_ends _ hi hc hs hi.stepsLeft_le
  exact ⟨t, hrun, fun hb => hit.busy_iff.1 hb hp, hp⟩

end Sys2Proof.Machine

namespace Sys2Proof.Machine

open Sys2Proof

/-! ### The queue of R201 -/

namespace Contract

/-- A queued tree's key, under the lexicographic order (R122). -/
def Keyed.key (x : Keyed) : ℕ ×ₗ ℕ := toLex (x.weight, x.minsym.toNat)

theorem Keyed.before_iff (x y : Keyed) : x.before y = true ↔ x.key < y.key := by
  simp [Keyed.before, Keyed.key, Prod.Lex.toLex_lt_toLex, BitVec.lt_def]

theorem enqueue_perm (x : Keyed) (q : List Keyed) : (enqueue x q).Perm (x :: q) := by
  induction q with
  | nil => exact .refl _
  | cons y q ih =>
    rw [enqueue]
    split
    · exact (ih.cons y).trans (.swap x y q)
    · exact .refl _

theorem enqueue_sorted (x : Keyed) {q : List Keyed} (h : q.Pairwise fun a b => a.key ≤ b.key) :
    (enqueue x q).Pairwise fun a b => a.key ≤ b.key := by
  induction q with
  | nil => exact List.pairwise_singleton _ _
  | cons y q ih =>
    obtain ⟨hy, hq⟩ := List.pairwise_cons.1 h
    rw [enqueue]
    split
    · rename_i hlt
      refine List.pairwise_cons.2 ⟨fun z hz => ?_, ih hq⟩
      obtain rfl | hz := List.mem_cons.1 ((enqueue_perm x q).mem_iff.1 hz)
      · exact ((Keyed.before_iff _ _).1 hlt).le
      · exact hy z hz
    · rename_i hge
      have hxy : x.key ≤ y.key := not_lt.1 (mt (Keyed.before_iff y x).2 hge)
      refine List.pairwise_cons.2 ⟨fun z hz => ?_, h⟩
      obtain rfl | hz := List.mem_cons.1 hz
      · exact hxy
      · exact hxy.trans (hy z hz)

/-- Queueing trees one by one queues them all, lowest key first. -/
theorem enqueueAll {α : Type} (f : α → Keyed) (l : List α) :
    (l.foldr (fun a q => enqueue (f a) q) []).Perm (l.map f) ∧
      (l.foldr (fun a q => enqueue (f a) q) []).Pairwise fun a b => a.key ≤ b.key := by
  induction l with
  | nil => exact ⟨.refl _, .nil⟩
  | cons a l ih => exact ⟨(enqueue_perm _ _).trans (ih.1.cons _), enqueue_sorted _ ih.2⟩

end Contract

/-! ### The arena's trees -/

/-- The tree under node `i` of an arena with `k` leaves; a node whose children do not come before it counts as a leaf,
which no arena of BUILD has. -/
def arenaTree (node : Vector Node 509) (k i : Nat) : Contract.Tree :=
  if _hbelow : k ≤ i ∧ (tget node i).c0.toNat < i ∧ (tget node i).c1.toNat < i then
    .node (arenaTree node k (tget node i).c0.toNat) (arenaTree node k (tget node i).c1.toNat)
  else .leaf (tget node i).sym
termination_by i
decreasing_by
  · exact _hbelow.2.1
  · exact _hbelow.2.2

/-- Node `i` of an arena as the queue of R201 holds it. -/
def arenaKeyed (node : Vector Node 509) (k i : Nat) : Contract.Keyed :=
  ⟨(tget node i).weight, (tget node i).minsym, arenaTree node k i⟩

/-- The queue of R201 holds the trees of the nodes that PQ holds before node `i` is made, lowest key first. -/
structure Queued (node : Vector Node 509) (k i : Nat) (q : List Contract.Keyed) : Prop where
  members : (q : Multiset Contract.Keyed) = (openNodes node k i).val.map (arenaKeyed node k)
  sorted : q.Pairwise fun x y => x.key ≤ y.key

section

variable {s : State} {node : Vector Node 509} {n i k : Nat} {q : List Contract.Keyed}

theorem arenaTree_leaf (h : i < k) : arenaTree node k i = .leaf (tget node i).sym := by
  rw [arenaTree, dif_neg (by omega)]

theorem Arena.arenaTree_node (h : Arena s node n) (hk : s.k.toNat ≤ i) (hi : i < n) :
    arenaTree node s.k.toNat i = .node (arenaTree node s.k.toNat (tget node i).c0.toNat)
      (arenaTree node s.k.toNat (tget node i).c1.toNat) := by
  rw [arenaTree, dif_pos ⟨hk, h.children_lt hk hi⟩]

/-- The "0" child has the lowest key of the open nodes. -/
theorem MergedAt.zero_key_le {old : Vector Node 509} (hm : MergedAt old node k i) {z : Nat}
    (hz : z ∈ openNodes node k i) : (tget node (tget node i).c0.toNat).key ≤ (tget node z).key := by
  obtain rfl | hz0 := eq_or_ne z (tget node i).c0.toNat
  · exact le_rfl
  · obtain rfl | hz1 := eq_or_ne z (tget node i).c1.toNat
    · exact hm.zero_lowest
    · exact hm.zero_lowest.trans (hm.one_lowest z hz hz0 hz1)

/-- The "1" child has the lowest key of the others. -/
theorem MergedAt.one_key_le {old : Vector Node 509} (hm : MergedAt old node k i) {z : Nat}
    (hz : z ∈ (openNodes node k i).erase (tget node i).c0.toNat) :
    (tget node (tget node i).c1.toNat).key ≤ (tget node z).key := by
  obtain ⟨hz0, hz⟩ := Finset.mem_erase.1 hz
  obtain rfl | hz1 := eq_or_ne z (tget node i).c1.toNat
  · exact le_rfl
  · exact hm.one_lowest z hz hz0 hz1

/-- A queue of some nodes with distinct keys begins with the lowest one. -/
theorem queue_head {S : Finset ℕ} {x : ℕ} (hx : x ∈ S) (hlow : ∀ z ∈ S, (tget node x).key ≤ (tget node z).key)
    (hinj : Set.InjOn (fun z => (tget node z).key) (S : Set ℕ))
    (hmem : (q : Multiset Contract.Keyed) = S.val.map (arenaKeyed node k))
    (hsort : q.Pairwise fun x y => x.key ≤ y.key) :
    ∃ r, q = arenaKeyed node k x :: r ∧ (r : Multiset Contract.Keyed) = (S.erase x).val.map (arenaKeyed node k) ∧
      r.Pairwise fun x y => x.key ≤ y.key := by
  have hmemx : arenaKeyed node k x ∈ q := by
    rw [← Multiset.mem_coe, hmem]
    exact Multiset.mem_map_of_mem _ hx
  cases q with
  | nil => exact absurd hmemx List.not_mem_nil
  | cons y r =>
    obtain ⟨hy, hr⟩ := List.pairwise_cons.1 hsort
    obtain ⟨z, hz, rfl⟩ : ∃ z ∈ S.val, arenaKeyed node k z = y :=
      Multiset.mem_map.1 (hmem ▸ Multiset.mem_coe.2 List.mem_cons_self)
    have hle : (arenaKeyed node k z).key ≤ (arenaKeyed node k x).key := by
      obtain e | hin := List.mem_cons.1 hmemx
      · exact (congrArg Contract.Keyed.key e).ge
      · exact hy _ hin
    obtain rfl : z = x := hinj hz hx (le_antisymm hle (hlow z hz))
    refine ⟨r, rfl, ?_, hr⟩
    rw [Finset.erase_val]
    have hcons := Multiset.cons_erase (s := S.val) (a := z) hz
    rw [← hcons, Multiset.map_cons, ← Multiset.cons_coe, Multiset.cons_inj_right] at hmem
    exact hmem

theorem Arena.key_injOn (h : Arena s node n) (hd : s.distinctSymbols) (hk : s.k.toNat ≤ i) (hi : i ≤ n) :
    Set.InjOn (fun z => (tget node z).key) (openNodes node s.k.toNat i : Set ℕ) :=
  fun _ hx _ hy e => h.minsym_injOn hd hk hi hx hy (Node.minsym_of_key_eq e)

/-- The merged tree is the new node's. -/
theorem Arena.arenaKeyed_node (h : Arena s node n) (hk : s.k.toNat ≤ i) (hi : i < n)
    {x y : Contract.Keyed} (hx : x = arenaKeyed node s.k.toNat (tget node i).c0.toNat)
    (hy : y = arenaKeyed node s.k.toNat (tget node i).c1.toNat) :
    (⟨x.weight + y.weight, if x.minsym ≤ y.minsym then x.minsym else y.minsym, .node x.tree y.tree⟩ :
      Contract.Keyed) = arenaKeyed node s.k.toNat i := by
  have hentry := (h.merges i hk hi).entry
  have hw : (tget node i).weight = _ := congrArg Node.weight hentry
  have hm : (tget node i).minsym = _ := congrArg Node.minsym hentry
  rw [arenaKeyed, h.arenaTree_node hk hi, hw, hm, hx, hy]
  rfl

/-- Merging the two lowest trees of the queue is making node `i` (R121, R201). -/
theorem Queued.merge (hq : Queued node s.k.toNat i q) (h : Arena s node n) (hd : s.distinctSymbols)
    (hk : s.k.toNat ≤ i) (hi : i < n) :
    ∃ x y r, q = x :: y :: r ∧ Queued node s.k.toNat (i + 1) (Contract.enqueue
      ⟨x.weight + y.weight, if x.minsym ≤ y.minsym then x.minsym else y.minsym, .node x.tree y.tree⟩ r) := by
  have hm := h.merges i hk hi
  have hinj := h.key_injOn hd hk hi.le
  obtain ⟨r, rfl, hmem, hsort⟩ := queue_head hm.zero_open (fun _ => hm.zero_key_le) hinj hq.members hq.sorted
  obtain ⟨r, rfl, hmem, hsort⟩ := queue_head hm.one_mem_erase (fun _ => hm.one_key_le)
    (hinj.mono (Finset.coe_subset.2 (Finset.erase_subset _ _))) hmem hsort
  refine ⟨_, _, r, rfl, ?_, Contract.enqueue_sorted _ hsort⟩
  rw [Multiset.coe_eq_coe.2 (Contract.enqueue_perm _ r), h.arenaKeyed_node hk hi rfl rfl, h.openNodes_succ hk hi,
    Finset.insert_val_of_notMem self_notMem_rest, Multiset.map_cons, ← hmem]
  rfl

/-- BUILD's merges are those of R201. -/
theorem Queued.mergeLowest {m : Nat} (hq : Queued node s.k.toNat i q) (h : Arena s node n) (hd : s.distinctSymbols)
    (hk : s.k.toNat ≤ i) (hi : i + m = n) : Queued node s.k.toNat n (Contract.mergeLowest m q) := by
  induction m generalizing i q with
  | zero =>
    have e : i = n := hi
    cases q <;> exact e ▸ hq
  | succ m ih =>
    obtain ⟨x, y, r, rfl, hnext⟩ := hq.merge h hd hk (by omega)
    exact ih hnext (by omega) (by omega)

/-- The table FREQ leaves for an extended message `m`: its distinct symbols in first-occurrence order, and its counts
(R114 to R116). -/
structure State.Tabled (s : State) (m : List Byte) : Prop where
  symbols : s.entries.map Entry.sym = Contract.firstOccurrences m
  counts : ∀ x : Byte, tget s.freq x.toNat = m.count x

variable {m : List Byte}

theorem State.Tabled.distinctSymbols (h : s.Tabled m) : s.distinctSymbols := by
  have hnodup := Contract.nodup_firstOccurrences m
  rw [← h.symbols] at hnodup
  exact List.pairwise_map.1 hnodup

theorem State.Tabled.length_symbols (h : s.Tabled m) : (Contract.firstOccurrences m).length = s.k.toNat := by
  rw [← h.symbols, List.length_map, State.length_entries]

/-- BUILD starts from the queue of R201. -/
theorem Arena.queued_leaves (h : Arena s node n) (ht : s.Tabled m) :
    Queued node s.k.toNat s.k.toNat
      ((Contract.firstOccurrences m).foldr (fun b q => Contract.enqueue ⟨m.count b, b, .leaf b⟩ q) []) := by
  obtain ⟨hperm, hsort⟩ :=
    Contract.enqueueAll (fun b => (⟨m.count b, b, .leaf b⟩ : Contract.Keyed)) (Contract.firstOccurrences m)
  refine ⟨?_, hsort⟩
  rw [Multiset.coe_eq_coe.2 hperm, openNodes_start, ← ht.symbols, State.entries, List.map_map, List.map_map]
  refine congrArg Multiset.ofList (List.map_congr_left fun j hj => ?_)
  have hj := List.mem_range.1 hj
  rw [arenaKeyed, arenaTree_leaf hj, h.leaves j hj]
  simp only [Function.comp_apply, leafNode, ht.counts]

/-- The tree of R201 is the finished arena's, under its last node. -/
theorem Arena.mergeLowest_leaves (h : Arena s node (2 * s.k.toNat - 1)) (hk : s.k ≠ 0) (ht : s.Tabled m) :
    Contract.mergeLowest (s.k.toNat - 1)
      ((Contract.firstOccurrences m).foldr (fun b q => Contract.enqueue ⟨m.count b, b, .leaf b⟩ q) []) =
      [arenaKeyed node s.k.toNat (2 * s.k.toNat - 2)] := by
  have hk0 := State.toNat_k_pos hk
  have hq := (h.queued_leaves ht).mergeLowest (m := s.k.toNat - 1) h ht.distinctSymbols le_rfl (by omega)
  have hmem := hq.members
  rw [h.openNodes_last hk, Finset.singleton_val, Multiset.map_singleton] at hmem
  exact Multiset.coe_eq_singleton.1 hmem

/-! ### Leaf depths (R136, R201) -/

/-- Some depths of the nodes below `2K - 1` in which each child is one deeper than its parent. -/
def Deepens (node : Vector Node 509) (k : Nat) (d : ℕ → ℕ) : Prop :=
  ∀ i, k ≤ i → i < 2 * k - 1 → ∀ c ∈ children node i, d c = d i + 1

variable {d : ℕ → ℕ} {b : Byte} {e : ℕ}

theorem Arena.leafDepths_node (h : Arena s node n) (hd : Deepens node s.k.toNat d) (hk : s.k.toNat ≤ i) (hi : i < n)
    (hn : n ≤ 2 * s.k.toNat - 1) :
    Contract.leafDepths (arenaTree node s.k.toNat i) (d i) =
      Contract.leafDepths (arenaTree node s.k.toNat (tget node i).c0.toNat) (d (tget node i).c0.toNat) ++
      Contract.leafDepths (arenaTree node s.k.toNat (tget node i).c1.toNat) (d (tget node i).c1.toNat) := by
  rw [h.arenaTree_node hk hi, Contract.leafDepths, hd i hk (by omega) _ (mem_children.2 (.inl rfl)),
    hd i hk (by omega) _ (mem_children.2 (.inr rfl))]

theorem Arena.leafDepths_leaf (h : Arena s node n) (hi : i < s.k.toNat) :
    Contract.leafDepths (arenaTree node s.k.toNat i) (d i) = [((tget s.ent i).sym, d i)] := by
  rw [arenaTree_leaf hi, Contract.leafDepths, h.leaves i hi]
  rfl

/-- The leaf depths below a node are depths of leaves of the arena. -/
theorem Arena.leaf_of_mem_leafDepths (h : Arena s node (2 * s.k.toNat - 1)) (hd : Deepens node s.k.toNat d)
    (hi : i < 2 * s.k.toNat - 1) (hmem : (b, e) ∈ Contract.leafDepths (arenaTree node s.k.toNat i) (d i)) :
    ∃ j < s.k.toNat, (tget s.ent j).sym = b ∧ d j = e := by
  induction i using Nat.strong_induction_on with
  | _ i ih =>
    obtain hlt | hk := Nat.lt_or_ge i s.k.toNat
    · rw [h.leafDepths_leaf hlt, List.mem_singleton, Prod.mk.injEq] at hmem
      exact ⟨i, hlt, hmem.1.symm, hmem.2.symm⟩
    · obtain ⟨h0, h1⟩ := h.children_lt hk hi
      rw [h.leafDepths_node hd hk hi le_rfl, List.mem_append] at hmem
      obtain hmem | hmem := hmem
      · exact ih _ h0 (by omega) hmem
      · exact ih _ h1 (by omega) hmem

/-- The leaf depths below the last node are those of every leaf: each node but it has a parent above (R128). -/
theorem Arena.leafDepths_subset_last {t : State} (h : Arena s t.node (2 * s.k.toNat - 1)) (htree : TreeShaped t)
    (htk : t.k = s.k) (hd : Deepens t.node s.k.toNat d) (hi : i ≤ 2 * s.k.toNat - 2) :
    Contract.leafDepths (arenaTree t.node s.k.toNat i) (d i) ⊆
      Contract.leafDepths (arenaTree t.node s.k.toNat (2 * s.k.toNat - 2)) (d (2 * s.k.toNat - 2)) := by
  induction hm : 2 * s.k.toNat - 2 - i using Nat.strong_induction_on generalizing i with
  | _ m ih =>
    obtain rfl | hlt := hi.eq_or_lt
    · exact List.Subset.refl _
    · obtain ⟨p, ⟨hkp, hp, hc⟩, -⟩ := htree.one_parent i (htk ▸ hlt)
      have hip := htree.lt_of_mem_children hkp hp (mem_children.2 hc)
      rw [htk] at hkp hp
      refine List.Subset.trans ?_ (ih _ (by omega) hp rfl)
      rw [h.leafDepths_node hd hkp (by omega) le_rfl]
      obtain rfl | rfl := hc
      · exact List.subset_append_left _ _
      · exact List.subset_append_right _ _

/-- Looking up a key that is listed with one value. -/
theorem lookup_of_mem {l : List (Byte × ℕ)} (hmem : (b, e) ∈ l) (huniq : ∀ e', (b, e') ∈ l → e' = e) :
    l.lookup b = some e := by
  induction l with
  | nil => exact absurd hmem List.not_mem_nil
  | cons x l ih =>
    obtain ⟨c, f⟩ := x
    obtain rfl | hne := eq_or_ne b c
    · rw [List.lookup_cons_self, huniq f List.mem_cons_self]
    · have hlater {e' : ℕ} (h : (b, e') ∈ (c, f) :: l) : (b, e') ∈ l :=
        (List.mem_cons.1 h).resolve_left fun e => hne (congrArg Prod.fst e)
      rw [List.lookup_cons, beq_false_of_ne hne]
      exact ih (hlater hmem) fun e' h => huniq e' (List.mem_cons_of_mem _ h)

/-- The code length of R201 is the depth of the symbol's leaf (R136, R201). -/
theorem Arena.codeLength_eq {t : State} (h : Arena s t.node (2 * s.k.toNat - 1)) (htree : TreeShaped t)
    (htk : t.k = s.k) (ht : s.Tabled m) (h2 : 2 ≤ s.k.toNat) (hd : Deepens t.node s.k.toNat d)
    (hroot : d (2 * s.k.toNat - 2) = 0) {j : ℕ} (hj : j < s.k.toNat) :
    Contract.codeLength m (tget s.ent j).sym = d j := by
  have hk : s.k ≠ 0 := by rintro e; simp [e] at h2
  have hmem : ((tget s.ent j).sym, d j) ∈
      Contract.leafDepths (arenaTree t.node s.k.toNat (2 * s.k.toNat - 2)) 0 := by
    rw [← hroot]
    refine h.leafDepths_subset_last htree htk hd (i := j) (by omega) ?_
    rw [h.leafDepths_leaf hj]
    exact List.mem_singleton_self _
  have hlookup := lookup_of_mem hmem fun e' he' => by
    rw [← hroot] at he'
    obtain ⟨i, hi, hsym, rfl⟩ := h.leaf_of_mem_leafDepths hd (by omega) he'
    rw [sym_injOn_of_distinctSymbols ht.distinctSymbols (by simpa using hi) (by simpa using hj) hsym]
  rw [Contract.codeLength]
  dsimp only
  rw [ht.length_symbols, if_neg (by omega), h.mergeLowest_leaves hk ht]
  dsimp only [arenaKeyed]
  rw [hlookup, Option.getD_some]

end

/-! ### BUILD and DEPTH as R201 describes them -/

section

variable {s : State} {m : List Byte}

/-- BUILD and DEPTH on the table of an extended message give each symbol the code length of R201. -/
theorem exec_build_depth_codeLength (hk : s.k ≠ 0) (ht : s.Tabled m) :
    ∃ t u, exec .build s = .next t ∧ exec .depth t = .next u ∧
      t = { s with node := t.node, pq := t.pq, nn := t.nn, root := t.root, phase := phDepth } ∧
      u = { t with node := u.node, ent := u.ent, phase := phSort } ∧
      u.entries = (Contract.firstOccurrences m).map
        (fun b => (⟨b, BitVec.ofNat 8 (Contract.codeLength m b)⟩ : Entry)) := by
  obtain ⟨t, hbuild, heqt, -, htree, harena⟩ := exec_build hk
  obtain ⟨u, hdepth, hequ, hent⟩ := exec_depth t
  have htk : t.k = s.k := by rw [heqt]
  have hte : t.ent = s.ent := by rw [heqt]
  have huk : u.k = s.k := by rw [hequ, ← htk]
  have hk0 := State.toNat_k_pos hk
  have hpush := pushed_depths htree
  refine ⟨t, u, hbuild, hdepth, by rw [heqt], by rw [hequ], ?_⟩
  rw [← ht.symbols, State.entries, State.entries, List.map_map, List.map_map, huk]
  refine List.map_congr_left fun j hj => ?_
  have hj := List.mem_range.1 hj
  rw [hent, htk, if_pos hj, hte]
  refine congrArg (Entry.mk _) ?_
  by_cases h1 : s.k = 1
  · have hone : (Contract.firstOccurrences m).length = 1 := by rw [ht.length_symbols, h1]; rfl
    rw [if_pos h1, Contract.codeLength]
    dsimp only
    rw [if_pos hone]
    rfl
  · have h2 : 2 ≤ s.k.toNat := by have := mt State.toNat_k_eq_one.1 h1; omega
    have hdeep : Deepens t.node s.k.toNat (fun i => (tget t.depths i).depth.toNat) := fun i hki hi c hc =>
      hpush.toNat_child_depth htree (htk ▸ hki) (by rw [htk]; omega) hc
    have hroot : (tget t.depths (2 * s.k.toNat - 2)).depth.toNat = 0 := by
      rw [← htk, ← htree.root_last, hpush.root_zero]
      rfl
    have hlen := harena.codeLength_eq htree htk ht h2 hdeep hroot hj
    rw [if_neg h1]
    show (tget t.depths j).depth = BitVec.ofNat 8 (Contract.codeLength m (tget s.ent j).sym)
    rw [hlen, BitVec.ofNat_toNat, BitVec.setWidth_eq]

end

end Sys2Proof.Machine

namespace Sys2Proof.Machine

open Sys2Proof

/-! ### A command step by step (R196 to R200, R205) -/

section

variable {s t : State} {i : Instr}

/-- A phase operation as a step of a run; a header phase starts with its cursor at 0. -/
theorem run_phase {c : PhaseCode} (hs : s.sched = []) (hp : s.phase = c) (hd : decodePhase c = .ok i)
    (he : exec i s = .next t) (n : Nat) (hr : c = phHdrr → s.iptr = 0 := by simp)
    (hw : c = phHdrw → s.optr = 0 := by simp) :
    Host.Core.run Sys2Proof.core (n + 1) s = Host.Core.run Sys2Proof.core n t := by
  subst hp
  refine run_succ ((step_phase hs ?_ hd).trans he) n
  rintro (⟨hc, hne⟩ | ⟨hc, hne⟩)
  · exact hne (hr hc)
  · exact hne (hw hc)

/-- An idle block stays as it is (R211). -/
theorem run_of_idle (hs : s.sched = []) (hp : s.phase = phIdle) (n : Nat) :
    Host.Core.run Sys2Proof.core n s = .next s := by
  induction n with
  | zero => rfl
  | succ n ih => rw [run_succ (idleChangesNoState.2 s hp hs), ih]

/-- The CMD value of the command that runs in a direction (R92). -/
def commandByte : Dir → Byte
  | .compress => 0x01
  | .decompress => 0x02

/-- The state once a command has been accepted and INIT has run (R110, R196). -/
def State.started (s : State) (d : Dir) : State :=
  { State.accept d { s with sched := [] } with
    k := 0, nn := 0, iptr := 0, optr := 0, acc := 0, nbits := 0, cand := 0, candlen := 0
    freq := .replicate 256 0, em := clearMap s.em, pq := []
    phase := if d = .compress then phFreq else phHdrr }

/-- The CMD write and INIT are the first two steps of a command. -/
theorem run_started (hb : ¬ s.busy) (d : Dir) (n : Nat) :
    Host.Core.run Sys2Proof.core (n + 2) { s with sched := [.writeCmd (commandByte d)] } =
      Host.Core.run Sys2Proof.core n (s.started d) := by
  have haccept : step { s with sched := [.writeCmd (commandByte d)] } =
      .next (State.accept d { s with sched := [] }) := by
    rw [cmdWriteIsAcceptedOrDropped]
    cases d with
    | compress => rw [if_pos ⟨hb, rfl⟩]; rfl
    | decompress => rw [if_neg fun h => absurd h.2 (by decide), if_pos ⟨hb, rfl⟩]; rfl
  rw [run_succ haccept]
  exact run_phase (i := .init) rfl rfl rfl rfl n

/-! ### What the phases before the output leave (R27, R29, R40, R41) -/

/-- The instructions that work on the tables and cursors alone. -/
def isTablePhase : Instr → Bool
  | .freq | .build | .depth | .sort | .assign | .hdrr => true
  | _ => false

/-- From one state to another the input, the output, DIR, the bit registers and the list of events are kept. -/
structure Kept (s t : State) : Prop where
  input : t.ibuf = s.ibuf ∧ t.ilen = s.ilen ∧ t.epoch = s.epoch
  sched : t.sched = s.sched
  output : t.obuf = s.obuf ∧ t.optr = s.optr
  dir : t.dir = s.dir
  packer : t.acc = s.acc ∧ t.nbits = s.nbits
  candidate : t.cand = s.cand ∧ t.candlen = s.candlen

theorem Kept.trans {u : State} (h : Kept s t) (g : Kept t u) : Kept s u where
  input := ⟨g.input.1.trans h.input.1, g.input.2.1.trans h.input.2.1, g.input.2.2.trans h.input.2.2⟩
  sched := g.sched.trans h.sched
  output := ⟨g.output.1.trans h.output.1, g.output.2.trans h.output.2⟩
  dir := g.dir.trans h.dir
  packer := ⟨g.packer.1.trans h.packer.1, g.packer.2.trans h.packer.2⟩
  candidate := ⟨g.candidate.1.trans h.candidate.1, g.candidate.2.trans h.candidate.2⟩

/-- The table phases write no bit register (R40, R41). -/
theorem exec_keeps_bits (hi : isTablePhase i = true) (he : exec i s = .next t) :
    (t.acc = s.acc ∧ t.nbits = s.nbits) ∧ t.cand = s.cand ∧ t.candlen = s.candlen := by
  cases i with
  | freq | build | depth | sort | assign | hdrr =>
    simp only [exec, execFreq, execBuild, execDepth, execSort, execAssign, execHdrr, withCount] at he
    repeat' split at he
    all_goals cases he
    all_goals exact ⟨⟨rfl, rfl⟩, rfl, rfl⟩
  | _ => cases hi

theorem exec_kept (hi : isTablePhase i = true) (he : exec i s = .next t) : Kept s t := by
  obtain ⟨houtput, hcmd⟩ : mayWriteOutput i = false ∧ (encode i).1 ≠ .cmd := by
    cases i with
    | freq | build | depth | sort | assign | hdrr => exact ⟨rfl, by decide⟩
    | _ => cases hi
  obtain ⟨hibuf, hilen, hsched, -, hepoch, -⟩ := exec_keeps_input he
  obtain ⟨hpacker, hcandidate⟩ := exec_keeps_bits hi he
  exact ⟨⟨hibuf, hilen, hepoch⟩, hsched, exec_keeps_output houtput he, exec_keeps_dir hcmd he, hpacker, hcandidate⟩

/-- The input bytes are those of IBUF below ILEN. -/
theorem Kept.inputFrom (h : Kept s t) (a : Nat) : t.inputFrom a = s.inputFrom a := by
  obtain ⟨hibuf, hilen, hepoch⟩ := h.input
  have hread : t.readIbuf = s.readIbuf := funext fun a => by rw [State.readIbuf, State.readIbuf, hibuf, hepoch]
  rw [State.inputFrom, State.inputFrom, hilen, hread]

theorem Kept.message (h : Kept s t) : t.message = s.message := h.inputFrom 0

/-! ### The rows SORT and ASSIGN leave are the canonical rows (R145, R201) -/

/-- Row `i` of R201 for rows that hold their entries in canonical order already. -/
theorem canonicalRow_rows {i : Nat} (hi : i < s.k.toNat) :
    Contract.canonicalRow (s.rows.map CodeEntry.entry) i =
      { tget s.ct i with code := BitVec.ofNat 264 (codeValue s.rowLen i) } := by
  have hentry : (s.rows.map CodeEntry.entry).getD i ⟨0, 0⟩ = (tget s.ct i).entry := by
    simp [List.getD, State.rows, hi]
  have htake : (s.rows.map CodeEntry.entry).take i = (List.range i).map fun m => (tget s.ct m).entry := by
    rw [State.rows, List.map_map, ← List.map_take, List.take_range, Nat.min_eq_left hi.le]
    rfl
  rw [Contract.canonicalRow, hentry, htake, List.map_map]
  rfl

/-- SORT and ASSIGN leave the canonical rows of the entries, and EM from them in the encoder (R141, R143, R145). -/
theorem exec_sort_assign_rows (s : State) :
    ∃ t u, exec .sort s = .next t ∧ exec .assign t = .next u ∧ t.phase = phAssign ∧
      u = { t with
        ct := u.ct, code := u.code, prevlen := u.prevlen, em := u.em
        phase := if s.dir = .compress then phHdrw else phUnpack } ∧
      t = { s with ct := t.ct, phase := phAssign } ∧
      u.rows = Contract.canonicalRows s.entries ∧
      (s.dir = .compress → u.em = (List.range s.k.toNat).foldl (mapRow u.ct) s.em) := by
  obtain ⟨t, hsort, ht, hrows, -⟩ := exec_sort s
  have htk : t.k = s.k := by rw [ht]
  have htd : t.dir = s.dir := by rw [ht]
  have hte : t.em = s.em := by rw [ht]
  have hsorted := canonicalOrder_sorted s.entries
  rw [← hrows] at hsorted
  have ha := assigned_codes (rowsRising_of_sorted hsorted)
  obtain ⟨u, hassign, hu, hem, -⟩ := exec_assign t
  have huct : u.ct = t.codes.ct := by rw [hu]
  have huk : u.k = s.k := by rw [hu, ← htk]
  refine ⟨t, u, hsort, hassign, by rw [ht], by rw [hu, htd], ht, ?_, fun hd => ?_⟩
  · rw [State.rows, Contract.canonicalRows, ← hrows, State.length_entries, huk, huct]
    refine List.map_congr_left fun i hi => ?_
    have hi : i < t.k.toNat := htk ▸ List.mem_range.1 hi
    rw [canonicalRow_rows hi, ha.row i hi]
  · rw [hem (htd.trans hd), huct, htk, hte]

end

end Sys2Proof.Machine

namespace Sys2Proof.Machine

open Sys2Proof

/-! ### The input bytes as a list (R13, R75) -/

section

variable {s t : State}

theorem getElem?_message {a : Nat} (h : a < s.ilen) : s.message[a]? = some (s.readIbuf a) := by
  have hlen : a < (s.inputFrom 0).length := by simpa using h
  rw [State.message, List.getElem?_eq_getElem hlen, State.getElem_inputFrom, Nat.zero_add]

theorem getD_message {a : Nat} (h : a < s.ilen) (v : Byte) : s.message.getD a v = s.readIbuf a := by
  rw [List.getD, getElem?_message h]
  rfl

theorem message_of_empty (h : s.ilen = 0) : s.message = [] := List.length_eq_zero_iff.1 (by simp [State.message, h])

theorem message_eq_cons (h : s.ilen ≠ 0) : s.message = s.readIbuf 0 :: s.message.tail :=
  List.eq_cons_of_mem_head? (by rw [List.head?_eq_getElem?]; exact getElem?_message (by omega))

theorem inputFrom_eq_drop (s : State) (a : Nat) : s.inputFrom a = s.message.drop a := by
  refine List.ext_getElem (by simp [State.message]) fun i hi hi' => ?_
  rw [State.getElem_inputFrom, List.getElem_drop]
  exact (((s.getElem_inputFrom 0 (a + i) _).trans (congrArg s.readIbuf (Nat.zero_add _)))).symm

/-- The bytes of a result are those OBUF lists (R27). -/
theorem result_eq_map {bs : List Byte} (hlen : t.olen = bs.length)
    (h : ∀ i, i < bs.length → Memory.lookup t.obuf i = bs[i]?) : t.result = bs.map some := by
  refine List.ext_getElem (by simp [State.result, hlen]) fun i hi hi' => ?_
  have hi : i < bs.length := by simpa using hi'
  simp [State.result, h i hi, hi]

end

/-! ### The decoder's command against R202 -/

namespace Contract

variable {c : List Byte} {k : Byte}

theorem decompress_of_zero (h : c = 0 :: c.tail) : decompress c = .error .invalidSymbolCount := by
  rw [h]
  rfl

theorem decompress_of_short (h : c = k :: c.tail) (hk : k ≠ 0) (hlt : c.length < 1 + 2 * k.toNat) :
    decompress c = .error .truncatedHeader := by
  rw [h] at hlt ⊢
  simp only [decompress, if_neg hk, if_pos hlt]

/-- The outcome for a payload the reader makes this of (R202). -/
def payloadOutcome : Option (List Byte) → Except ErrorKind (List Byte)
  | some out => .ok out
  | none => .error .unterminatedPayload

theorem decompress_of_whole (h : c = k :: c.tail) (hk : k ≠ 0) (hle : 1 + 2 * k.toNat ≤ c.length) :
    decompress c = payloadOutcome (decodeBits (codeTable (canonicalRows (headerEntries c k.toNat)))
      (bitsOf (c.drop (1 + 2 * k.toNat))) []) := by
  rw [h] at hle ⊢
  simp only [decompress, if_neg hk, if_neg (Nat.not_lt.2 hle)]
  split <;> rename_i e <;> rw [e] <;> rfl

end Contract

section

variable {s t : State}

/-- UNPACK ends with what the reader of R202 makes of the payload. -/
theorem exec_unpack_outcome (hcand : s.cand = 0) (hlen : s.candlen = 0) (hoptr : s.optr = 0) :
    ∃ t, exec .unpack s = .next t ∧ t.phase = phIdle ∧ t.hasOutcome (Contract.payloadOutcome
      (Contract.decodeBits (Contract.codeTable s.rows) (Contract.bitsOf (s.inputFrom s.iptr)) [])) := by
  obtain ⟨t, he, ht, hout⟩ := unpackDecodesPayload s hcand hlen
  refine ⟨t, he, by rw [ht], ?_⟩
  rw [hoptr] at hout
  cases hd : Contract.decodeBits (Contract.codeTable s.rows) (Contract.bitsOf (s.inputFrom s.iptr)) [] with
  | none => rw [hd] at hout; exact hout
  | some out =>
    rw [hd] at hout
    obtain ⟨hstatus, holen, hbytes, -⟩ := hout
    refine ⟨hstatus, result_eq_map (holen.trans (Nat.zero_add _)) fun i hi => ?_⟩
    exact (congrArg (Memory.lookup t.obuf) (Nat.zero_add i).symm).trans (hbytes i hi)

/-- The entries HDRR has read are the pairs of the header (R88, R160). -/
theorem exec_hdrr_entries (hk : s.readIbuf 0 ≠ 0) (hle : payloadAddr (s.readIbuf 0).toNat ≤ s.ilen) :
    ∃ t, exec .hdrr s = .next t ∧ t.phase = phSort ∧ t.iptr = payloadAddr (s.readIbuf 0).toNat ∧
      t.entries = Contract.headerEntries s.message (s.readIbuf 0).toNat := by
  refine ⟨_, exec_hdrr_of_whole hk hle, rfl, rfl, List.map_congr_left fun j hj => ?_⟩
  have hj : j < (s.readIbuf 0).toNat := List.mem_range.1 hj
  rw [payloadAddr] at hle
  rw [tget_readPairs s (Nat.le_of_lt_succ (s.readIbuf 0).isLt), if_pos hj, getD_message (by omega),
    getD_message (by omega)]
  rfl

/-- `n` steps from `s` end the command with an outcome, the input kept. -/
def EndsWith (n : Nat) (s : State) (o : Except ErrorKind (List Byte)) : Prop :=
  ∃ t : State, Host.Core.run Sys2Proof.core n s = .next t ∧
    t.hasOutcome o ∧ t.phase = phIdle ∧ t.ibuf = s.ibuf ∧ t.ilen = s.ilen

/-- A phase that aborts ends the command with its error. -/
theorem endsWith_of_abort {c : PhaseCode} {i : Instr} {u : State} {e : ErrorKind} (hs : s.sched = [])
    (hp : s.phase = c) (hd : decodePhase c = .ok i) (he : exec i s = .next (u.raise e)) (n : Nat)
    (hr : c = phHdrr → s.iptr = 0 := by simp) (hw : c = phHdrw → s.optr = 0 := by simp) :
    EndsWith (n + 1) s (.error e) := by
  obtain ⟨hibuf, hilen, hsched, -⟩ := exec_keeps_input he
  refine ⟨u.raise e, ?_, ⟨rfl, rfl⟩, rfl, hibuf, hilen⟩
  rw [run_phase hs hp hd he n hr hw, run_of_idle (hsched.trans hs) rfl]

/-- What INIT leaves for HDRR (R110). -/
structure ReadyToRead (s : State) : Prop where
  no_event : s.sched = []
  phase : s.phase = phHdrr
  dir : s.dir = .decompress
  cursors : s.iptr = 0 ∧ s.optr = 0
  candidate : s.cand = 0 ∧ s.candlen = 0

/-- Where HDRR aborts, the command ends with its error. -/
theorem ReadyToRead.endsWith_of_abort (h : ReadyToRead s) {u : State} {e : ErrorKind}
    (he : exec .hdrr s = .next (u.raise e)) : EndsWith 4 s (.error e) :=
  Machine.endsWith_of_abort h.no_event h.phase rfl he 3 fun _ => h.cursors.1

/-- On a whole header SORT, ASSIGN and UNPACK follow, with the canonical rows of its entries. -/
theorem ReadyToRead.endsWith_of_whole (h : ReadyToRead s) (hk : s.readIbuf 0 ≠ 0)
    (hle : payloadAddr (s.readIbuf 0).toNat ≤ s.ilen) :
    EndsWith 4 s (Contract.payloadOutcome (Contract.decodeBits
      (Contract.codeTable (Contract.canonicalRows (Contract.headerEntries s.message (s.readIbuf 0).toNat)))
      (Contract.bitsOf (s.message.drop (payloadAddr (s.readIbuf 0).toNat))) [])) := by
  obtain ⟨t, he, htp, hti, hentries⟩ := exec_hdrr_entries hk hle
  obtain ⟨u, v, hsort, hassign, hup, hv, hu, hrows, -⟩ := exec_sort_assign_rows t
  have ht := exec_kept rfl he
  have hsu := ht.trans (exec_kept rfl hsort)
  have hsv := hsu.trans (exec_kept rfl hassign)
  obtain ⟨hcand, hcandlen⟩ := hsv.candidate
  obtain ⟨-, hoptr⟩ := hsv.output
  have hvp : v.phase = phUnpack := by rw [hv, if_neg (by rw [ht.dir, h.dir]; decide)]
  have hvi : v.iptr = payloadAddr (s.readIbuf 0).toNat := by rw [hv, hu, ← hti]
  obtain ⟨w, hunpack, hwp, hout⟩ := exec_unpack_outcome (hcand.trans h.candidate.1) (hcandlen.trans h.candidate.2)
    (hoptr.trans h.cursors.2)
  obtain ⟨hibuf, hilen, -⟩ := exec_keeps_input hunpack
  obtain ⟨hibuf', hilen', -⟩ := hsv.input
  rw [hrows, hentries, hsv.inputFrom, hvi, inputFrom_eq_drop] at hout
  refine ⟨w, ?_, hout, hwp, hibuf.trans hibuf', hilen.trans hilen'⟩
  rw [run_phase h.no_event h.phase rfl he 3 fun _ => h.cursors.1, run_phase (ht.sched.trans h.no_event) htp rfl hsort,
    run_phase (hsu.sched.trans h.no_event) hup rfl hassign, run_phase (hsv.sched.trans h.no_event) hvp rfl hunpack]
  rfl

/-- HDRR and the phases after it end with the outcome of R202. -/
theorem ReadyToRead.endsWith_decompress (h : ReadyToRead s) : EndsWith 4 s (Contract.decompress s.message) := by
  by_cases hz : s.ilen = 0
  · rw [message_of_empty hz]
    exact h.endsWith_of_abort (exec_hdrr_of_empty hz)
  · have hcons := message_eq_cons hz
    have hlen : s.message.length = s.ilen := s.length_inputFrom 0
    by_cases hk : s.readIbuf 0 = 0
    · rw [Contract.decompress_of_zero (hk ▸ hcons)]
      exact h.endsWith_of_abort (exec_hdrr_of_zero hz hk)
    · obtain hlt | hle := Nat.lt_or_ge s.ilen (payloadAddr (s.readIbuf 0).toNat)
      · rw [Contract.decompress_of_short hcons hk (hlen ▸ hlt)]
        exact h.endsWith_of_abort (exec_hdrr_of_short hz hk hlt)
      · rw [Contract.decompress_of_whole hcons hk (hlen ▸ hle)]
        exact h.endsWith_of_whole hk hle

/-- A command that ends from INIT's state on ends from its CMD write on. -/
theorem endsWith_of_started (hb : ¬ s.busy) {d : Dir} {n : Nat} {o : Except ErrorKind (List Byte)}
    (h : EndsWith n (s.started d) o) :
    ∃ t : State, Host.Core.run Sys2Proof.core (n + 2) { s with sched := [.writeCmd (commandByte d)] } = .next t ∧
      t.hasOutcome o ∧ t.phase = phIdle ∧ t.ibuf = s.ibuf ∧ t.ilen = s.ilen := by
  rw [run_started hb]
  exact h

theorem readyToRead_started (s : State) : ReadyToRead (s.started .decompress) :=
  ⟨rfl, rfl, rfl, ⟨rfl, rfl⟩, rfl, rfl⟩

end

/-- Settles O46: INIT leaves the state HDRR starts from, and every way on from there ends with the outcome of R202. -/
theorem decompressMeetsContract : Obligations.DecompressMeetsContract := fun s hb =>
  endsWith_of_started hb (d := .decompress) (readyToRead_started s).endsWith_decompress

end Sys2Proof.Machine

namespace Sys2Proof.Machine

open Sys2Proof

/-! ### The container of R201 in parts -/

namespace Contract

/-- The entries of R201 for an extended message: its symbols with their code lengths. -/
def codeEntries (m' : List Byte) : List Entry :=
  (firstOccurrences m').map fun b => ⟨b, BitVec.ofNat 8 (codeLength m' b)⟩

/-- A header's bytes: the count byte and the pairs (R88). -/
def headerBytes (es : List Entry) : List Byte := BitVec.ofNat 8 es.length :: es.flatMap fun e => [e.sym, e.len]

/-- The codeword some rows give a symbol. -/
def codewordOf (rows : List CodeEntry) (b : Byte) : List Bool :=
  ((rows.find? fun r => r.sym == b).map codeword).getD []

/-- The container of an extended message. -/
def container (m' : List Byte) : List Byte :=
  headerBytes (codeEntries m') ++ packBytes (m'.flatMap (codewordOf (canonicalRows (codeEntries m'))))

theorem compress_of_term {m : List Byte} (h : Config.term ∈ m) : compress m = .error .reservedByteInInput := if_pos h

theorem compress_of_no_term {m : List Byte} (h : Config.term ∉ m) : compress m = .ok (container (extended m)) :=
  if_neg h

theorem length_pairBytes (es : List Entry) : (es.flatMap fun e => [e.sym, e.len]).length = 2 * es.length := by
  simp [List.length_flatMap, Nat.mul_comm]

theorem length_headerBytes (es : List Entry) : (headerBytes es).length = payloadAddr es.length := by
  rw [headerBytes, List.length_cons, length_pairBytes, payloadAddr, Nat.add_comm]

/-- In rows with distinct symbols a row is the one found for its symbol. -/
theorem find?_sym {rows : List CodeEntry} (hd : (rows.map CodeEntry.sym).Nodup) {r : CodeEntry} (hr : r ∈ rows) :
    rows.find? (fun q => q.sym == r.sym) = some r := by
  induction rows with
  | nil => exact absurd hr List.not_mem_nil
  | cons q rows ih =>
    obtain ⟨hq, hrows⟩ := List.nodup_cons.1 hd
    obtain rfl | hr := List.mem_cons.1 hr
    · exact List.find?_cons_of_pos (by simp)
    · have hne : q.sym ≠ r.sym := fun e => hq (e ▸ List.mem_map_of_mem hr)
      rw [List.find?_cons_of_neg (by simpa using hne), ih hrows hr]

end Contract

/-! ### The encoder's tables (R201) -/

section

variable {s : State} {m : List Byte}

/-- What ASSIGN leaves for an extended message `m`: the entries and the canonical rows of R201, whose codes are
matchable and canonical, and in EM the codeword of each symbol of `m`. -/
structure State.Encoded (s : State) (m : List Byte) : Prop where
  entries : s.entries = Contract.codeEntries m
  rows : s.rows = Contract.canonicalRows (Contract.codeEntries m)
  nodup : (s.rows.map CodeEntry.sym).Nodup
  complete : ∀ b ∈ m, ∃ r ∈ s.rows, r.sym = b
  matchable : ∀ r ∈ s.rows, Contract.matchable r = true
  canonical : CanonicalCode s.rows
  map : ∀ b ∈ m, (tget s.em b.toNat).valid = true ∧ (tget s.em b.toNat).codeword = Contract.codewordOf s.rows b

/-- What several lemmas say of the states an instruction answers holds of one and the same. -/
theorem exec_unique {i : Instr} {t u : State} (h : exec i s = .next t) (g : exec i s = .next u) : t = u := by
  rw [h] at g
  cases g
  rfl

section

variable {t u v w : State} (hbuild : exec .build s = .next t) (hdepth : exec .depth t = .next u)
  (hsort : exec .sort u = .next v) (hassign : exec .assign v = .next w)
include hsort hassign

/-- The rows are the entries in some order. -/
theorem sort_assign_perm : (w.rows.map CodeEntry.entry).Perm u.entries := by
  obtain ⟨v', w', hsort', hassign', hperm, -⟩ := exec_sort_assign u
  obtain rfl := exec_unique hsort hsort'
  obtain rfl := exec_unique hassign hassign'
  exact hperm

/-- Codes whose lengths fill the Kraft sum fit them (R147). -/
theorem sort_assign_fit (h : kraft (u.entries.map fun e => e.len.toNat) = 2 ^ 255) :
    ∀ r ∈ w.rows, r.code.toNat < 2 ^ r.len.toNat := by
  obtain ⟨v', w', hsort', hassign', -, -, hfit⟩ := exec_sort_assign u
  obtain rfl := exec_unique hsort hsort'
  obtain rfl := exec_unique hassign hassign'
  exact hfit h

/-- A single row has the code 0 (R143). -/
theorem sort_assign_single {e : Entry} (h : u.entries = [e]) : w.rows = [⟨e.sym, e.len, 0⟩] := by
  obtain ⟨v', w', hsort', hassign', -, -, -, hrows, -⟩ := exec_sort_assign_rows u
  obtain rfl := exec_unique hsort hsort'
  obtain rfl := exec_unique hassign hassign'
  simp [hrows, h, Contract.canonicalRows, Contract.canonicalRow, canonicalOrder, insertEntry]

include hbuild hdepth

theorem encoder_canonical (hk : s.k ≠ 0) : CanonicalCode w.rows := by
  obtain ⟨t', u', v', w', hbuild', hdepth', hsort', hassign', hcanonical, -⟩ := encoderCodesAreCanonical s hk
  obtain rfl := exec_unique hbuild hbuild'
  obtain rfl := exec_unique hdepth hdepth'
  obtain rfl := exec_unique hsort hsort'
  obtain rfl := exec_unique hassign hassign'
  exact hcanonical

/-- Every code of the encoder is matchable: at least one bit long and no longer than its length says (R137, R139, R147,
R148). -/
theorem encoder_matchable (hk : s.k ≠ 0) : ∀ r ∈ w.rows, Contract.matchable r = true := by
  obtain ⟨t', u', hbuild', hdepth', huk, htwo, hone⟩ := exec_build_depth hk
  obtain rfl := exec_unique hbuild hbuild'
  obtain rfl := exec_unique hdepth hdepth'
  intro r hr
  obtain h1 | h2 : s.k = 1 ∨ 2 ≤ s.k.toNat := by
    have := State.toNat_k_pos hk
    rw [← State.toNat_k_eq_one]
    omega
  · obtain ⟨e, he, hlen⟩ := List.map_eq_singleton_iff.1 (hone h1)
    rw [sort_assign_single hsort hassign he, List.mem_singleton] at hr
    have hzero : (0 : Code).toNat = 0 := BitVec.toNat_zero
    simp only [Contract.matchable, hr, hlen, hzero]
    decide
  · obtain ⟨hkraft, hbounds⟩ := htwo h2
    have hentry := (sort_assign_perm hsort hassign).mem_iff.1 (List.mem_map_of_mem hr)
    simp only [Contract.matchable, Bool.and_eq_true, decide_eq_true_eq]
    exact ⟨(hbounds _ hentry).1, sort_assign_fit hsort hassign hkraft r hr⟩

end

/-- ASSIGN's EM gives each symbol of the rows the codeword of its row (R143). -/
theorem mapRows_codeword {rows : List CodeEntry} {ct : Vector CodeEntry 255} {em : Vector MapEntry 256} {n : Nat}
    (hrows : rows = (List.range n).map (tget ct)) (hd : (rows.map CodeEntry.sym).Nodup) {r : CodeEntry} (hr : r ∈ rows) :
    (tget ((List.range n).foldl (mapRow ct) em) r.sym.toNat).valid = true ∧
      (tget ((List.range n).foldl (mapRow ct) em) r.sym.toNat).codeword = Contract.codewordOf rows r.sym := by
  have hrev : (rows.reverse.map CodeEntry.sym).Nodup := by rwa [List.map_reverse, List.nodup_reverse]
  have hfind := Contract.find?_sym hrev (List.mem_reverse.2 hr)
  rw [tget_mapRows, ← hrows, hfind, Contract.codewordOf, Contract.find?_sym hd hr]
  exact ⟨rfl, rfl⟩

/-- BUILD, DEPTH, SORT and ASSIGN in the encoder compute the tables of R201. -/
theorem exec_encoder (hk : s.k ≠ 0) (ht : s.Tabled m) (hd : s.dir = .compress) :
    ∃ t u v w, exec .build s = .next t ∧ exec .depth t = .next u ∧ exec .sort u = .next v ∧ exec .assign v = .next w ∧
      t.phase = phDepth ∧ u.phase = phSort ∧ v.phase = phAssign ∧ w.phase = phHdrw ∧ w.Encoded m := by
  obtain ⟨t, u, hbuild, hdepth, heqt, hequ, hentries⟩ := exec_build_depth_codeLength hk ht
  obtain ⟨v, w, hsort, hassign, hvp, heqw, heqv, hrows, hem⟩ := exec_sort_assign_rows u
  have hdir : u.dir = .compress := by rw [hequ, heqt, hd]
  have hkw : w.k = u.k := by rw [heqw, heqv]
  have hentw : w.entries = u.entries := by rw [State.entries, State.entries, heqw, heqv]
  have hsym : (w.rows.map CodeEntry.sym).Perm (Contract.firstOccurrences m) := by
    have hperm := (sort_assign_perm hsort hassign).map Entry.sym
    rwa [hentries, List.map_map, List.map_map, show Entry.sym ∘ _ = id from rfl, List.map_id] at hperm
  have hnodup : (w.rows.map CodeEntry.sym).Nodup := hsym.nodup_iff.2 (Contract.nodup_firstOccurrences m)
  have hcomplete : ∀ b ∈ m, ∃ r ∈ w.rows, r.sym = b := fun b hb =>
    List.mem_map.1 (hsym.mem_iff.2 (Contract.mem_firstOccurrences.2 hb))
  refine ⟨t, u, v, w, hbuild, hdepth, hsort, hassign, by rw [heqt], by rw [hequ], hvp, by rw [heqw, if_pos hdir],
    hentw.trans hentries, by rw [hrows, hentries]; rfl, hnodup, hcomplete,
    encoder_matchable hbuild hdepth hsort hassign hk, encoder_canonical hbuild hdepth hsort hassign hk, ?_⟩
  intro b hb
  obtain ⟨r, hr, rfl⟩ := hcomplete b hb
  rw [hem hdir, ← hkw]
  exact mapRows_codeword rfl hnodup hr

end

/-! ### The encoder's command against R201 -/

section

variable {s : State} {m : List Byte}

/-- What INIT leaves for FREQ (R110). -/
structure ReadyToCount (s : State) : Prop where
  no_event : s.sched = []
  phase : s.phase = phFreq
  dir : s.dir = .compress
  optr : s.optr = 0
  packer : s.acc = 0 ∧ s.nbits = 0
  k : s.k = 0
  freq : ∀ x : Byte, tget s.freq x.toNat = 0

/-- FREQ aborts on a byte 0 (R113, R219). -/
theorem exec_freq_of_term (h : Config.term ∈ s.message) :
    ∃ u, exec .freq s = .next (State.raise .reservedByteInInput u) := by
  have hstop := (freqScan_stops_iff s.message { s.counter with iptr := 0 }).2 h
  show ∃ u, execFreq s = _
  unfold execFreq
  split
  · exact ⟨_, rfl⟩
  case h_2 c e => rw [e] at hstop; cases hstop

/-- FREQ counts the extended message (R111, R115). -/
theorem ReadyToCount.exec_freq (h : ReadyToCount s) (hm : Config.term ∉ s.message) :
    ∃ t, exec .freq s = .next t ∧ t.phase = phBuild ∧ t.k ≠ 0 ∧ t.Tabled (Contract.extended s.message) := by
  obtain ⟨t, he, ht, hsym, hcount, -, -⟩ := freqCountsMessage s h.k h.freq hm
  have htabled : t.Tabled (Contract.extended s.message) := ⟨hsym, hcount⟩
  have hlen := htabled.length_symbols
  rw [Contract.firstOccurrences_extended hm, List.length_append, List.length_singleton] at hlen
  refine ⟨t, he, by rw [ht], fun h0 => ?_, htabled⟩
  rw [h0] at hlen
  exact Nat.succ_ne_zero _ hlen

/-- FREQ to ASSIGN in the encoder: five steps to the tables of R201. -/
theorem ReadyToCount.run_encoder (h : ReadyToCount s) (hm : Config.term ∉ s.message) :
    ∃ w, (∀ n, Host.Core.run Sys2Proof.core (n + 5) s = Host.Core.run Sys2Proof.core n w) ∧ Kept s w ∧
      w.phase = phHdrw ∧ w.Encoded (Contract.extended s.message) := by
  obtain ⟨t, hfreq, htp, htk, htabled⟩ := h.exec_freq hm
  have ht := exec_kept rfl hfreq
  obtain ⟨u, v, x, w, hbuild, hdepth, hsort, hassign, hup, hvp, hxp, hwp, hw⟩ :=
    exec_encoder htk htabled (ht.dir.trans h.dir)
  have hu := ht.trans (exec_kept rfl hbuild)
  have hv := hu.trans (exec_kept rfl hdepth)
  have hx := hv.trans (exec_kept rfl hsort)
  refine ⟨w, fun n => ?_, hx.trans (exec_kept rfl hassign), hwp, hw⟩
  rw [run_phase h.no_event h.phase rfl hfreq, run_phase (ht.sched.trans h.no_event) htp rfl hbuild,
    run_phase (hu.sched.trans h.no_event) hup rfl hdepth, run_phase (hv.sched.trans h.no_event) hvp rfl hsort,
    run_phase (hx.sched.trans h.no_event) hxp rfl hassign]

/-- HDRW writes the bytes of a header from address 0 on (R88, R156). -/
theorem headerUpTo_eq_writeBytes (s : State) :
    s.headerUpTo s.k.toNat = Memory.writeBytes s.obuf 0 (Contract.headerBytes s.entries) := by
  have hcount : BitVec.ofNat 8 s.entries.length = s.k := by
    rw [State.length_entries, BitVec.ofNat_toNat, BitVec.setWidth_eq]
  have hpairs : ∀ n, s.headerUpTo n = Memory.writeBytes s.obuf 0
      (s.k :: ((List.range n).map (tget s.ent)).flatMap fun e => [e.sym, e.len]) := by
    intro n
    induction n with
    | zero => rfl
    | succ n ih =>
      have hlen : 0 + (s.k :: ((List.range n).map (tget s.ent)).flatMap fun e => [e.sym, e.len]).length =
          symAddr n := by
        rw [List.length_cons, Contract.length_pairBytes, List.length_map, List.length_range, symAddr]
        omega
      have hnext : symAddr n + 1 = lenAddr n := by
        rw [symAddr, lenAddr]
        omega
      rw [s.headerUpTo_succ, ih, List.range_succ, List.map_append, List.flatMap_append, ← List.cons_append,
        Memory.writeBytes_append, hlen]
      show writePair _ n _ = Memory.write (Memory.write _ (symAddr n) _) (symAddr n + 1) _
      rw [hnext]
      rfl
  rw [Contract.headerBytes, hcount]
  exact hpairs _

/-- HDRW leaves the header in OBUF and OPTR at its end (R156). -/
theorem exec_hdrw_bytes (s : State) :
    ∃ t, exec .hdrw s = .next t ∧ t = { s with obuf := t.obuf, optr := t.optr, phase := phPack } ∧
      t.optr = (Contract.headerBytes s.entries).length ∧
      t.obuf = Memory.writeBytes s.obuf 0 (Contract.headerBytes s.entries) := by
  refine ⟨_, exec_hdrw s, rfl, ?_, headerUpTo_eq_writeBytes s⟩
  rw [Contract.length_headerBytes, State.length_entries]

/-- PACK appends the packed bits of some codewords to what is in OBUF up to OPTR, which is the result then (R172,
R199). -/
theorem exec_pack_bytes {out : List Byte} {m : Memory} {word : Byte → List Bool} (hacc : s.acc = 0)
    (hnbits : s.nbits = 0) (hoptr : s.optr = out.length) (hobuf : s.obuf = Memory.writeBytes m 0 out)
    (hmap : ∀ b ∈ Contract.extended s.message,
      (tget s.em b.toNat).valid = true ∧ (tget s.em b.toNat).codeword = word b) :
    ∃ t, exec .pack s = .next t ∧ t.phase = phIdle ∧
      t.hasOutcome (.ok (out ++ Contract.packBytes ((Contract.extended s.message).flatMap word))) := by
  have hword : (Contract.extended s.message).flatMap (fun b => (tget s.em b.toNat).codeword) =
      (Contract.extended s.message).flatMap word := List.flatMap_congr fun b hb => (hmap b hb).2
  have he := exec_pack hacc hnbits fun b hb => (hmap b hb).1
  rw [hword, hoptr, hobuf] at he
  refine ⟨_, he, rfl, rfl, result_eq_map (List.length_append).symm fun i hi => ?_⟩
  have hend := Memory.writeBytes_append m 0 out
    (Contract.packBytes ((Contract.extended s.message).flatMap word))
  rw [Nat.zero_add] at hend
  dsimp only
  rw [← hend, ← Memory.lookup_writeBytes hi, Nat.zero_add]

/-- HDRW and PACK put the container out (R156, R172, R201). -/
theorem State.Encoded.endsWith_container (h : s.Encoded (Contract.extended s.message)) (hs : s.sched = [])
    (hp : s.phase = phHdrw) (ho : s.optr = 0) (hacc : s.acc = 0 ∧ s.nbits = 0) :
    EndsWith 2 s (.ok (Contract.container (Contract.extended s.message))) := by
  obtain ⟨t, hhdrw, ht, hoptr, hobuf⟩ := exec_hdrw_bytes s
  obtain ⟨hibuf, hilen, hsched, -, hepoch, -⟩ := exec_keeps_input hhdrw
  have hmessage : t.message = s.message := by rw [ht]; rfl
  have hem : t.em = s.em := by rw [ht]
  obtain ⟨u, hpack, hup, hout⟩ := exec_pack_bytes (s := t) (word := Contract.codewordOf s.rows)
    (by rw [ht]; exact hacc.1) (by rw [ht]; exact hacc.2) hoptr hobuf (by rw [hmessage, hem]; exact h.map)
  obtain ⟨hibuf', hilen', -⟩ := exec_keeps_input hpack
  refine ⟨u, ?_, ?_, hup, hibuf'.trans hibuf, hilen'.trans hilen⟩
  · rw [run_phase hs hp rfl hhdrw 1 (by simp) fun _ => ho,
      run_phase (hsched.trans hs) (by rw [ht]) rfl hpack 0]
    rfl
  · rw [Contract.container, ← h.rows, ← h.entries, ← hmessage]
    exact hout

/-- FREQ and the phases after it end with the outcome of R201. -/
theorem ReadyToCount.endsWith_compress (h : ReadyToCount s) : EndsWith 7 s (Contract.compress s.message) := by
  by_cases hm : Config.term ∈ s.message
  · obtain ⟨u, he⟩ := exec_freq_of_term hm
    rw [Contract.compress_of_term hm]
    exact endsWith_of_abort h.no_event h.phase rfl he 6
  · obtain ⟨w, hrun, hkept, hwp, hw⟩ := h.run_encoder hm
    rw [← hkept.message] at hw
    obtain ⟨t, hend, hout, htp, hibuf, hilen⟩ := hw.endsWith_container (hkept.sched.trans h.no_event) hwp
      (hkept.output.2.trans h.optr) ⟨hkept.packer.1.trans h.packer.1, hkept.packer.2.trans h.packer.2⟩
    obtain ⟨hibuf', hilen', -⟩ := hkept.input
    rw [Contract.compress_of_no_term hm]
    rw [hkept.message] at hout
    exact ⟨t, (hrun 2).trans hend, hout, htp, hibuf.trans hibuf', hilen.trans hilen'⟩

theorem readyToCount_started (s : State) : ReadyToCount (s.started .compress) :=
  ⟨rfl, rfl, rfl, rfl, ⟨rfl, rfl⟩, rfl, fun x => tget_replicate x.isLt⟩

end

/-- Settles O45: INIT leaves the state FREQ starts from, and from there the abort on a byte 0, or the container, is the
outcome of R201. -/
theorem compressMeetsContract : Obligations.CompressMeetsContract := fun s hb =>
  endsWith_of_started hb (d := .compress) (readyToCount_started s).endsWith_compress

end Sys2Proof.Machine

namespace Sys2Proof.Machine

open Sys2Proof

/-! ### A result depends on the input alone (R44, R207) -/

section

variable {s t u : State} {o : Except ErrorKind (List Byte)}

/-- An outcome gives STATUS, OLEN and the result. -/
theorem hasOutcome_unique (ht : t.hasOutcome o) (hu : u.hasOutcome o) :
    t.status = u.status ∧ t.olen = u.olen ∧ t.result = u.result := by
  cases o with
  | error e =>
    obtain ⟨htstatus, htolen⟩ := ht
    obtain ⟨hustatus, huolen⟩ := hu
    exact ⟨htstatus.trans hustatus.symm, htolen.trans huolen.symm, by simp [State.result, htolen, huolen]⟩
  | ok bs =>
    obtain ⟨htstatus, htresult⟩ := ht
    obtain ⟨hustatus, huresult⟩ := hu
    have hlen : t.result.length = u.result.length := by rw [htresult, huresult]
    exact ⟨htstatus.trans hustatus.symm, by simpa [State.result] using hlen, htresult.trans huresult.symm⟩

/-- The outcome of a command as a function of its input (R201, R202). -/
def outcomeOf : Dir → List Byte → Except ErrorKind (List Byte)
  | .compress => Contract.compress
  | .decompress => Contract.decompress

/-- A run of one step more begins with a step. -/
theorem step_of_run_succ {n : Nat} (h : Host.Core.run Sys2Proof.core (n + 1) s = .next t) :
    ∃ u, step s = .next u ∧ Host.Core.run Sys2Proof.core n u = .next t := by
  cases hstep : step s with
  | next u => exact ⟨u, rfl, (run_succ hstep n).symm.trans h⟩
  | fault r =>
    have hcore : Sys2Proof.core.step s = .fault r := hstep
    simp only [Host.Core.run, hcore] at h
    cases h
  | refused r =>
    have hcore : Sys2Proof.core.step s = .refused r := hstep
    simp only [Host.Core.run, hcore] at h
    cases h

/-- A run that has come to IDLE stays there. -/
theorem run_past_idle {n : Nat} (hs : s.sched = []) (h : Host.Core.run Sys2Proof.core n s = .next t)
    (hp : t.phase = phIdle) (d : Nat) : Host.Core.run Sys2Proof.core (n + d) s = .next t := by
  induction n generalizing s with
  | zero =>
    cases h
    rw [Nat.zero_add]
    exact run_of_idle hs hp d
  | succ n ih =>
    obtain ⟨u, hstep, hrun⟩ := step_of_run_succ h
    rw [Nat.add_right_comm, run_succ hstep]
    exact ih (step_keeps_no_event hs hstep) hrun

/-- Seven steps after INIT are enough for either command. -/
theorem endsWith_outcomeOf (s : State) (d : Dir) : EndsWith 7 (s.started d) (outcomeOf d s.message) := by
  cases d with
  | compress => exact (readyToCount_started s).endsWith_compress
  | decompress =>
    obtain ⟨t, hrun, hout, hp, hinput⟩ := (readyToRead_started s).endsWith_decompress
    exact ⟨t, run_past_idle rfl hrun hp 3, hout, hp, hinput⟩

/-- Two commands on the same input end the same. -/
theorem commands_agree (hs : ¬ s.busy) (hu : ¬ u.busy) (hm : s.message = u.message) (d : Dir) :
    ∃ t w : State, Host.Core.run Sys2Proof.core 9 { s with sched := [.writeCmd (commandByte d)] } = .next t ∧
      Host.Core.run Sys2Proof.core 9 { u with sched := [.writeCmd (commandByte d)] } = .next w ∧
      t.status = w.status ∧ t.olen = w.olen ∧ t.result = w.result := by
  obtain ⟨t, hrun, hout, -⟩ := endsWith_of_started hs (endsWith_outcomeOf s d)
  obtain ⟨w, hrun', hout', -⟩ := endsWith_of_started hu (endsWith_outcomeOf u d)
  exact ⟨t, w, hrun, hrun', hasOutcome_unique hout (hm ▸ hout')⟩

end

/-- Settles O48: both commands end with an outcome that is a function of the input bytes. -/
theorem resultDependsOnInputAlone : Obligations.ResultDependsOnInputAlone := by
  rintro s u v hs hu hm (rfl | rfl)
  · exact commands_agree hs hu hm .compress
  · exact commands_agree hs hu hm .decompress

/-! ### Bits to bytes and back (R62, R64) -/

namespace Contract

variable {bits : List Bool}

/-- The bits of an accumulated byte are those of the stream, the last one lowest. -/
theorem getLsbD_accBits (i : Nat) {n j : Nat} (hj : j < n) (hn : n ≤ 8) :
    (accBits bits i n).getLsbD j = bits.getD (8 * i + (n - 1 - j)) false := by
  induction n generalizing j with
  | zero => exact absurd hj (Nat.not_lt_zero j)
  | succ n ih =>
    rw [accBits_succ]
    cases j with
    | zero => simp
    | succ j =>
      rw [show n + 1 - 1 - (j + 1) = n - 1 - j by omega, ← ih (by omega) (by omega)]
      have hshift : (accBits bits i n <<< 1).getLsbD (j + 1) = (accBits bits i n).getLsbD j := by
        rw [BitVec.getLsbD_shiftLeft]
        simp [show j + 1 < 8 by omega]
      rw [BitVec.getLsbD_or, hshift]
      simp

/-- Byte `i` of a stream read back: eight bits of it, zeros past its end. -/
theorem bits_byteAt (i : Nat) :
    (List.range 8).map (fun j => (byteAt bits i).getLsbD (7 - j)) =
      (List.range 8).map fun j => bits.getD (8 * i + j) false := by
  refine List.map_congr_left fun j hj => ?_
  have hj := List.mem_range.1 hj
  rw [byteAt_eq_accBits, getLsbD_accBits i (by omega) le_rfl, show 8 - 1 - (7 - j) = j by omega]

/-- Bytes of a stream read back: its bits, zeros past its end. -/
theorem bitsOf_streamBytes (k : Nat) :
    bitsOf (streamBytes bits k) = (List.range (8 * k)).map fun j => bits.getD j false := by
  induction k with
  | zero => rfl
  | succ k ih =>
    rw [streamBytes_succ, bitsOf, List.flatMap_append, ← bitsOf, ih, List.flatMap_singleton, bits_byteAt,
      Nat.mul_succ, List.range_add, List.map_append, List.map_map]
    rfl

/-- Packed bits read back begin with the bits; zeros may follow. -/
theorem prefix_bitsOf_packBytes (bits : List Bool) : bits <+: bitsOf (packBytes bits) := by
  have hpack : packBytes bits = streamBytes bits ((bits.length + 7) / 8) := rfl
  rw [hpack, bitsOf_streamBytes, List.prefix_iff_eq_take, ← List.map_take, List.take_range, Nat.min_eq_left (by omega)]
  exact List.ext_getElem (by simp) fun j hj _ => by simp [hj]

/-! ### The reader undoes the packer (R202, R203) -/

variable {table : List (List Bool × Byte)} {w : List Bool × Byte}

/-- The reader meets a codeword bit by bit: nothing that begins it is in the table but itself (R147, R202). -/
theorem decodeBits_codeword (hw : w ∈ table) (hfree : ∀ v ∈ table, v.1 <+: w.1 → v = w) {c d : List Bool}
    (hd : d ≠ []) (hcd : c ++ d = w.1) (rest : List Bool) :
    decodeBits table (d ++ rest) c =
      if w.2 = Config.term then some [] else (decodeBits table rest []).map (w.2 :: ·) := by
  induction d generalizing c with
  | nil => exact absurd rfl hd
  | cons b d ih =>
    rw [List.cons_append, decodeBits]
    cases d with
    | nil =>
      have hfind : table.find? (fun v => v.1 == c ++ [b]) = some w := by
        rw [hcd]
        cases hf : table.find? fun v => v.1 == w.1 with
        | none => exact absurd (List.find?_eq_none.1 hf w hw) (by simp)
        | some v =>
          have hword : v.1 = w.1 := by simpa using List.find?_some hf
          rw [hfree v (List.mem_of_find?_eq_some hf) (hword ▸ List.prefix_rfl)]
      rw [hfind]
      rfl
    | cons b' d =>
      have hcd' : (c ++ [b]) ++ (b' :: d) = w.1 := by rw [List.append_assoc]; exact hcd
      have hfind : table.find? (fun v => v.1 == c ++ [b]) = none := by
        refine List.find?_eq_none.2 fun v hv hword => ?_
        have hword : v.1 = c ++ [b] := by simpa using hword
        have hvw := hfree v hv (hcd' ▸ hword ▸ List.prefix_append _ _)
        rw [← hvw, hword] at hcd'
        simp at hcd'
      rw [hfind]
      exact ih (List.cons_ne_nil _ _) hcd'

/-- The codewords of a message and the terminator, whatever follows, read back as the message (R202, R203). -/
theorem decodeBits_words (hfree : ∀ v ∈ table, ∀ w ∈ table, v.1 <+: w.1 → v = w) (hne : ∀ w ∈ table, w.1 ≠ [])
    {word : Byte → List Bool} {l : List Byte} (hl : Config.term ∉ l)
    (hword : ∀ b ∈ l ++ [Config.term], (word b, b) ∈ table) (rest : List Bool) :
    decodeBits table ((l ++ [Config.term]).flatMap word ++ rest) [] = some l := by
  have hone {b : Byte} (hb : (word b, b) ∈ table) (rest : List Bool) :=
    decodeBits_codeword hb (fun v hv => hfree v hv _ hb) (hne _ hb) (List.nil_append _) rest
  induction l with
  | nil =>
    rw [List.nil_append, List.flatMap_singleton, hone (hword _ (List.mem_singleton_self _)), if_pos rfl]
  | cons b l ih =>
    obtain ⟨hb, hl⟩ := not_or.1 (mt List.mem_cons.2 hl)
    rw [List.cons_append, List.forall_mem_cons] at hword
    obtain ⟨hbword, hword⟩ := hword
    rw [List.cons_append, List.flatMap_cons, List.append_assoc, hone hbword, if_neg (Ne.symm hb), ih hl hword]
    rfl

/-! ### The container read back (R163, R203) -/

/-- The header's pairs, symbol before length (R156). -/
theorem getD_pairBytes (es : List Entry) (p : List Byte) {j : Nat} (hj : j < es.length) :
    ((es.flatMap fun e => [e.sym, e.len]) ++ p).getD (2 * j) 0 = es[j].sym ∧
      ((es.flatMap fun e => [e.sym, e.len]) ++ p).getD (2 * j + 1) 0 = es[j].len := by
  induction es generalizing j with
  | nil => exact absurd hj (Nat.not_lt_zero j)
  | cons e es ih =>
    cases j with
    | zero => exact ⟨rfl, rfl⟩
    | succ j => exact ih (Nat.lt_of_succ_lt_succ hj)

/-- The header's pairs read back as the entries (R163). -/
theorem headerEntries_headerBytes (es : List Entry) (p : List Byte) :
    headerEntries (headerBytes es ++ p) es.length = es := by
  refine List.ext_getElem (by simp [headerEntries]) fun j hj hj' => ?_
  obtain ⟨hsym, hlen⟩ := getD_pairBytes es p hj'
  have hat (a : Nat) : (headerBytes es ++ p).getD (1 + a) 0 = ((es.flatMap fun e => [e.sym, e.len]) ++ p).getD a 0 := by
    rw [Nat.add_comm]
    rfl
  simp only [headerEntries, List.getElem_map, List.getElem_range]
  rw [hat, hsym, show 2 + 2 * j = 1 + (2 * j + 1) by omega, hat, hlen]

end Contract

section

variable {s t u : State} {m : List Byte}

/-- Every row of the encoder is in the reader's table. -/
theorem State.Encoded.codeTable_eq (h : s.Encoded m) :
    Contract.codeTable s.rows = s.rows.map fun r => (Contract.codeword r, r.sym) := by
  rw [Contract.codeTable, List.filter_eq_self.2 h.matchable]

/-- No codeword of the encoder begins another (R149). -/
theorem State.Encoded.prefix_free (h : s.Encoded m) :
    ∀ v ∈ Contract.codeTable s.rows, ∀ w ∈ Contract.codeTable s.rows, v.1 <+: w.1 → v = w := by
  simp only [h.codeTable_eq, List.mem_map]
  rintro _ ⟨r, hr, rfl⟩ _ ⟨q, hq, rfl⟩ hprefix
  by_contra hne
  have hrq : r ≠ q := fun e => hne (by rw [e])
  have hsymm : Std.Symm fun r q : CodeEntry =>
      ¬ Contract.codeword r <+: Contract.codeword q ∧ ¬ Contract.codeword q <+: Contract.codeword r :=
    ⟨fun _ _ => And.symm⟩
  exact (h.canonical.prefix_free.forall hr hq hrq).1 hprefix

theorem State.Encoded.codeword_ne_nil (h : s.Encoded m) : ∀ w ∈ Contract.codeTable s.rows, w.1 ≠ [] := by
  simp only [h.codeTable_eq, List.mem_map]
  rintro _ ⟨r, hr, rfl⟩ (hnil : Contract.codeword r = [])
  have hmatch := h.matchable r hr
  have hlen : r.len.toNat = 0 := by rw [← length_codeword, hnil, List.length_nil]
  simp [Contract.matchable, hlen] at hmatch

theorem State.Encoded.codewordOf_mem (h : s.Encoded m) {b : Byte} (hb : b ∈ m) :
    (Contract.codewordOf s.rows b, b) ∈ Contract.codeTable s.rows := by
  obtain ⟨r, hr, rfl⟩ := h.complete b hb
  rw [Contract.codewordOf, Contract.find?_sym h.nodup hr, h.codeTable_eq]
  exact List.mem_map_of_mem hr

/-- DECOMPRESS undoes COMPRESS on the tables of the encoder (R203). -/
theorem State.Encoded.decompress_container (h : s.Encoded (Contract.extended m)) (hm : Config.term ∉ m) :
    Contract.decompress (Contract.container (Contract.extended m)) = .ok (Contract.filterCr m) := by
  have hcount : (Contract.codeEntries (Contract.extended m)).length = s.k.toNat := by
    rw [← h.entries, State.length_entries]
  have hcons : Contract.container (Contract.extended m) = s.k :: (Contract.container (Contract.extended m)).tail := by
    rw [Contract.container, Contract.headerBytes, hcount, BitVec.ofNat_toNat, BitVec.setWidth_eq]
    rfl
  have hk : s.k ≠ 0 := fun h0 => by
    obtain ⟨r, hr, -⟩ := h.complete Config.term (List.mem_append_right _ (List.mem_singleton_self _))
    rw [State.rows, h0] at hr
    exact List.not_mem_nil hr
  have hheader : (Contract.headerBytes (Contract.codeEntries (Contract.extended m))).length = 1 + 2 * s.k.toNat := by
    rw [Contract.length_headerBytes, hcount, payloadAddr]
  have hle : 1 + 2 * s.k.toNat ≤ (Contract.container (Contract.extended m)).length := by
    rw [Contract.container, List.length_append, hheader]
    exact Nat.le_add_right _ _
  obtain ⟨rest, hbits⟩ := Contract.prefix_bitsOf_packBytes
    ((Contract.extended m).flatMap (Contract.codewordOf (Contract.canonicalRows
      (Contract.codeEntries (Contract.extended m)))))
  have hterm : Config.term ∉ Contract.filterCr m := fun hmem => hm (List.mem_of_mem_filter hmem)
  have hread := Contract.decodeBits_words h.prefix_free h.codeword_ne_nil hterm (fun b hb => h.codewordOf_mem hb) rest
  rw [Contract.decompress_of_whole hcons hk hle, Contract.container, List.drop_left' hheader, ← hbits, ← hcount,
    Contract.headerEntries_headerBytes, ← h.rows]
  exact congrArg Contract.payloadOutcome hread

/-- A state whose IBUF holds the bytes of a result, and ILEN their number, has the result for its input. -/
theorem message_eq_of_result {bs : List Byte} (hresult : t.result = bs.map some) (hlen : u.ilen = t.olen)
    (h : ∀ a, a < t.olen → Memory.lookup t.obuf a = some (u.readIbuf a)) : u.message = bs := by
  refine List.map_injective_iff.2 (Option.some_injective _) ?_
  rw [← hresult, State.result, State.message, State.inputFrom, List.map_map, hlen, Nat.sub_zero,
    ← List.range_eq_range']
  exact List.map_congr_left fun a ha => (h a (List.mem_range.1 ha)).symm

/-- DECOMPRESS of the container of a message gives the message less its CR bytes (R203). -/
theorem decompress_container (hm : Config.term ∉ s.message) :
    Contract.decompress (Contract.container (Contract.extended s.message)) = .ok (Contract.filterCr s.message) := by
  obtain ⟨w, -, -, -, hw⟩ := (readyToCount_started s).run_encoder hm
  exact hw.decompress_container hm

end

/-- Settles O47: COMPRESS ends with the container, the second block has it for its input, and its reader undoes it. -/
theorem roundTrip : Obligations.RoundTrip := by
  refine ⟨fun s hb hm => ?_, fun s hb hm => ?_⟩
  · obtain ⟨t, hrun, hout, -⟩ := compressMeetsContract s hb
    rw [Contract.compress_of_no_term hm] at hout
    obtain ⟨hstatus, hresult⟩ := hout
    refine ⟨t, hrun, hstatus, fun u hu hlen hbytes => ?_⟩
    obtain ⟨v, hrun', hout', -⟩ := decompressMeetsContract u hu
    rw [message_eq_of_result hresult hlen hbytes, decompress_container hm] at hout'
    exact ⟨v, hrun', hout'⟩
  · obtain ⟨t, hrun, hout, -⟩ := compressMeetsContract s hb
    rw [Contract.compress_of_term hm] at hout
    exact ⟨t, hrun, hout⟩

end Sys2Proof.Machine

namespace Sys2Proof.Machine

open Sys2Proof

/-! ### What stays while no command runs (R229, R245) -/

section

variable {s t : State} {i : Instr}

/-- In IDLE a step can run IDLE or one of the two commands, and nothing else (R196, R211). -/
theorem runnable_of_idle (hp : s.phase = phIdle) (h : Runnable s i) :
    i = .idle ∨ i = .compress ∨ i = .decompress := by
  have other {c : PhaseCode} (hc : s.phase = c) (hne : phIdle ≠ c) : False := hne (hp.symm.trans hc)
  cases i with
  | idle => exact .inl rfl
  | compress => exact .inr (.inl rfl)
  | decompress => exact .inr (.inr rfl)
  | hdrK | hdrPair =>
    obtain ⟨hc, -⟩ | ⟨hc, -⟩ := h
    · exact (other hc (by decide)).elim
    · exact (other hc (by decide)).elim
  | _ => exact (other h (by decide)).elim

/-- In an idle block an instruction accepts a command or does nothing (R196, R211). -/
theorem exec_of_idle (hb : ¬ s.busy) (hp : s.phase = phIdle) (hr : Runnable s i) (h : exec i s = .next t) :
    t.busy ∨ t = s := by
  obtain rfl | rfl | rfl := runnable_of_idle hp hr
  · cases h
    exact .inr rfl
  · cases (execCompress_accepts hb).symm.trans h
    exact .inl rfl
  · cases (execDecompress_accepts hb).symm.trans h
    exact .inl rfl

/-- Every host access but reset writes ILEN, IBUF and the model's own read port and count of draws at most (R22 to
R27). -/
theorem hostAccess_frame {e : Event} (h : e ≠ .reset) (s : State) :
    ∃ n m p d, hostAccess e s = { s with ilen := n, ibuf := m, port := p, draws := d } := by
  unfold hostAccess
  split
  · cases e with
    | reset => exact absurd rfl h
    | readObuf a =>
      show ∃ n m p d, s.hostReadObuf a = _
      unfold State.hostReadObuf
      split
      · exact ⟨_, _, _, _, rfl⟩
      · split <;> exact ⟨_, _, _, _, rfl⟩
    | writeIlen | writeIbuf | readOlen =>
      unfold doAccess
      dsimp only
      split <;> exact ⟨_, _, _, _, rfl⟩
    | _ => exact ⟨_, _, _, _, rfl⟩
  · exact ⟨_, _, _, _, rfl⟩

end

/-- Settles O9: the invariant puts the block in IDLE, where an instruction that accepts no command does nothing, and no
host access but reset writes the four fields. -/
theorem resultStaysUntilNextCommand : Obligations.ResultStaysUntilNextCommand := by
  intro s t hi hb h hnb hr
  have hp : s.phase = phIdle := not_not.1 (hi.busy_iff.not.1 hb)
  obtain ⟨i, hrun, he⟩ | ⟨e, hs, rfl⟩ := step_cases h
  · obtain rfl := (exec_of_idle (by exact hb) (by exact hp) hrun he).resolve_left hnb
    exact ⟨rfl, rfl, rfl, rfl⟩
  · have hne : e ≠ .reset := fun hreset => hr (hs.trans (congrArg some hreset))
    obtain ⟨n, m, p, d, hframe⟩ := hostAccess_frame hne { s with sched := s.sched.tail }
    rw [hframe]
    exact ⟨rfl, rfl, rfl, rfl⟩

/-! ### Aborts and reset (R216, R218, R219, R226, R240) -/

/-- FREQ aborts on a byte 0, with what the scan has counted so far in its registers (R113, R219). -/
theorem exec_freq_abort_state {s : State} (h : Config.term ∈ s.message) :
    ∃ c, exec .freq s = .next ((s.withCounter c).raise .reservedByteInInput) := by
  obtain ⟨c, hscan⟩ : ∃ c, freqScan s.message { s.counter with iptr := 0 } = (c, true) :=
    ⟨_, Prod.ext rfl ((freqScan_stops_iff _ _).2 h)⟩
  refine ⟨c, ?_⟩
  show execFreq s = _
  rw [execFreq, hscan]

/-- Settles O17: the byte 0 is in the message, so the scan stops there, and the counters and the abort write the named
fields alone. -/
theorem freqRejectsReservedByte : Obligations.FreqRejectsReservedByte := by
  rintro s ⟨a, ha, hzero⟩
  have hmem : Config.term ∈ s.message := List.mem_of_getElem? ((getElem?_message ha).trans (congrArg some hzero))
  obtain ⟨c, he⟩ := exec_freq_abort_state hmem
  exact ⟨_, he, rfl⟩

/-- Settles O29: the three ways HDRR aborts. -/
theorem hdrrRaisesOnBadHeader : Obligations.HdrrRaisesOnBadHeader := fun _ =>
  ⟨exec_hdrr_of_empty, exec_hdrr_of_zero, exec_hdrr_of_short⟩

/-- The registers whose reset value the spec states (R45, R240). -/
theorem applyReset_registers (s : State) :
    s.applyReset.status.toByte = 0x00 ∧ s.applyReset.ilen = 0 ∧ s.applyReset.olen = 0 ∧
      s.applyReset.phase = phIdle := by
  obtain ⟨hidle, -⟩ := statusByteLayout
  exact ⟨hidle, rfl, rfl, rfl⟩

/-- Settles O1: the port carries the reset event in any state, and reset writes the four registers. -/
theorem resetEventLeavesIdleBlock : Obligations.ResetEventLeavesIdleBlock := by
  refine ⟨fun s es => ?_, rfl, rfl, rfl, rfl⟩
  obtain ⟨hstatus, hilen, holen, hphase⟩ := applyReset_registers { s with sched := es }
  exact ⟨_, step_of_access (e := .reset) rfl rfl rfl, hstatus, hilen, holen, hphase, rfl⟩

end Sys2Proof.Machine
